-- ==== Sys2Proof/Word.lean ====
section
/-! DEFINITION. The two unsigned value types of the spec (00_scope.md section 4, "Values"). -/

namespace Sys2Proof

/-- `u8`: an unsigned 8-bit value (00_scope.md section 4). -/
abbrev Byte := BitVec 8

/-- `u16`: an unsigned 16-bit value; every address is one (00_scope.md R7 `ADDR_WIDTH`). -/
abbrev Word := BitVec 16

end Sys2Proof
end

