-- ==== Sys2Proof/Config.lean ====
section
/-! DEFINITION. What the implementation fixes: the parameters of 00_scope.md R7 and the configuration constants that
92_eei_decisions.md and 93_implementation_defined.md name, each at the value the spec gives it. The spec leaves no
parameter open (R7), so no value here is free. -/

namespace Sys2Proof.Config

/-- `MEM_SIZE` (00_scope.md R7). -/
@[simp] def memSize : Nat := 65536

/-- `RESET_PC` (00_scope.md R7, 70_reset_and_hazards.md R251): the address of the first instruction byte, not a vector. -/
@[simp] def resetPc : Word := 0xFFFC

/-- `STACK_BASE` (00_scope.md R7, 46_stack.md R210). -/
@[simp] def stackBase : Word := 0x0100

/-- Cycles TSX and TXS charge after the opcode fetch (D4). UNVERIFIED, unsafe: log 4. -/
@[simp] def spTransferTicks : Nat := 1

/-- Cycles a pull charges after the opcode fetch (D5). UNVERIFIED, unsafe: log 5. -/
@[simp] def pullTicks : Nat := 3

/-- Bits PHP forces to 1 in the pushed byte: none (D6). UNVERIFIED, unsafe: log 6. -/
@[simp] def phpForceMask : Byte := 0x00

/-- The high byte of a `(zp),Y` pointer comes from the wrapped successor in page 0 (D3). UNVERIFIED, unsafe: log 3. -/
@[simp] def indYPtrWrap : Bool := true

/-- The first operand byte of an absolute form is the high byte (R124, I10). UNVERIFIED, unsafe: log 15. -/
@[simp] def absHighFirst : Bool := true

end Sys2Proof.Config
end

