-- ==== Sys2Proof/Machine/State.lean ====
section
/-! DEFINITION. The machine's state: everything the spec gives it (10_state.md, record CoreState), as plain data; the
reasons a request can stop; the states at creation and after reset. -/

namespace Sys2Proof.Machine

/-- The three 8-bit general registers loads, stores and transfers name (10_state.md R21..R23). -/
inductive Reg where
  | a | x | y
  deriving DecidableEq, Repr

/-- The registers the host's accessors read (40_engine.md R102). -/
inductive RegName where
  | a | x | y | sp | p | pc
  deriving DecidableEq, Repr

/-- The diagnostic event `UnknownInstruction(opcode, address)` (40_engine.md R98, D7). UNVERIFIED content, unsafe for
claims about it: log 7. -/
structure UnknownInstruction where
  /-- The unknown opcode byte. -/
  opcode : Byte
  /-- The address it was fetched from. -/
  address : Word
  deriving DecidableEq, Repr

/-- The 65536 bytes of memory (20_memory.md R45) as a list of cells: addresses strictly rising, no cell holding 0x00,
which is what an unlisted address reads as (R45, R46). DESIGN CHOICE of form, safe: log 23. -/
abbrev Memory := List Host.Cell

/-- The machine's state (10_state.md R20, R36..R39, R41). -/
structure State where
  /-- False from creation to the first `reset` (R37). -/
  defined : Bool
  /-- The program counter (R25). -/
  pc : Word
  /-- The stack pointer (R24). -/
  sp : Byte
  /-- The accumulator (R21). -/
  a : Byte
  /-- Index register X (R22). -/
  x : Byte
  /-- Index register Y (R23). -/
  y : Byte
  /-- The status register P: bits C Z I D B U V N from bit 0 up (R26). -/
  p : Byte
  /-- `cycles_elapsed` (R36), unbounded (D9). UNVERIFIED, unsafe near a machine word's limit: log 9. -/
  cycles : Nat
  /-- The memory (R39). -/
  mem : Memory
  /-- The diagnostic events, oldest first (R38). -/
  diag : List UnknownInstruction
  deriving DecidableEq, Repr

/-- Why a request is a fault. -/
inductive Fault where
  /-- `MemoryRangeFault(address)` (60_exceptions.md R221): raised by the host's memory port alone, for an address of
  65536 or more; no instruction raises it (R222). Safe: the spec itself terminates the operation. -/
  | memoryRange (address : Nat)
  deriving DecidableEq, Repr

/-- Why a request is refused. -/
inductive Refusal where
  /-- An instruction with no meaning yet; no arm raises it. Safe. -/
  | notModelled (mnemonic : String)
  /-- A step, `execute` or an accessor before the first `reset` (40_engine.md R107, D8). Safe. -/
  | beforeReset
  deriving DecidableEq, Repr

/-- The core as created (10_state.md R37, 20_memory.md R45, 40_engine.md R103): memory all 0x00, no event, `defined`
false. The registers hold undefined values, so they are arguments and nothing is chosen for them (log 8). `cycles` 0 is a
DESIGN CHOICE, unsafe in form: log 10. -/
def State.created (pc : Word) (sp a x y p : Byte) : State where
  defined := false
  pc := pc
  sp := sp
  a := a
  x := x
  y := y
  p := p
  cycles := 0
  mem := []
  diag := []

/-- The machine right after its first reset (70_reset_and_hazards.md R250, R251). `cycles` 0: DESIGN CHOICE, log 10. -/
def State.reset : State where
  defined := true
  pc := 0xFFFC
  sp := 0x00
  a := 0x00
  x := 0x00
  y := 0x00
  p := 0x00
  cycles := 0
  mem := []
  diag := []

end Sys2Proof.Machine
end

