-- ==== Sys2Proof/Machine/Ops.lean ====
section
/-! DEFINITION. The named operations on memory and registers: the memory port, the cycle-charging primitives, the stack
pointer controller, the report of an unknown opcode and the reset. The spec has no exception entry and no return from one
(60_exceptions.md R227, R228); what an unknown opcode does instead is `State.emitUnknown`. -/

namespace Sys2Proof.Machine

/-! ### Memory -/

/-- The byte at address `k`: 0x00 where no cell is listed (20_memory.md R45, R46). -/
def Memory.read : Memory → Nat → Byte
  | [], _ => 0x00
  | c :: m, k => if c.1 = k then c.2 else Memory.read m k

/-- The memory without any cell at `k`. -/
def Memory.without (m : Memory) (k : Nat) : Memory := m.filter (fun c => c.1 != k)

/-- The memory with the cell `(k, v)` put before the first cell of a higher address. -/
def Memory.place : Memory → Nat → Byte → Memory
  | [], k, v => [(k, v)]
  | c :: m, k, v => if c.1 < k then c :: Memory.place m k v else (k, v) :: c :: m

/-- Write one byte and keep the canonical form (R46; log 23). -/
def Memory.write (m : Memory) (k : Nat) (v : Byte) : Memory :=
  if v = 0x00 then m.without k else (m.without k).place k v

/-- The canonical form: addresses strictly rising and inside the 65536 bytes, no cell holding 0x00. -/
abbrev Memory.wf (m : Memory) : Prop :=
  m.Pairwise (fun c d => c.1 < d.1) ∧ ∀ c ∈ m, c.1 < Config.memSize ∧ c.2 ≠ 0x00

/-- `MemRead(addr, 1)` for an address the core forms (R46..R48); it charges no cycle (00_scope.md section 4). -/
def State.memRead (s : State) (addr : Word) : Byte := s.mem.read addr.toNat

/-- `MemWrite(addr, 1, v)` for an address the core forms (R46..R49); it charges no cycle. -/
def State.memWrite (s : State) (addr : Word) (v : Byte) : State := { s with mem := s.mem.write addr.toNat v }

/-- The port's `read` with the precondition on its address (20_memory.md R47, 60_exceptions.md R221). -/
def State.portRead (s : State) (addr : Nat) : Host.Outcome Byte Fault Refusal :=
  if addr < Config.memSize then .next (s.memRead (BitVec.ofNat 16 addr)) else .fault (.memoryRange addr)

/-- The port's `write` with the precondition on its address (R47, R221). -/
def State.portWrite (s : State) (addr : Nat) (v : Byte) : Host.Outcome State Fault Refusal :=
  if addr < Config.memSize then .next (s.memWrite (BitVec.ofNat 16 addr) v) else .fault (.memoryRange addr)

/-! ### Registers -/

/-- Read a general register (10_state.md R21..R23). -/
def State.reg (s : State) : Reg → Byte
  | .a => s.a
  | .x => s.x
  | .y => s.y

/-- Write a general register (R21..R23). -/
def State.setReg (s : State) (r : Reg) (v : Byte) : State :=
  match r with
  | .a => { s with a := v }
  | .x => { s with x := v }
  | .y => { s with y := v }

/-- `SP <- v` (R24). -/
def State.setSp (s : State) (v : Byte) : State := { s with sp := v }

/-- `P <- v`, all eight bits (R26, R42). -/
def State.setP (s : State) (v : Byte) : State := { s with p := v }

/-- `PC <- w` (R25). -/
def State.setPc (s : State) (w : Word) : State := { s with pc := w }

/-- `cycles <- n` (40_engine.md R91, step 1). -/
def State.setCycles (s : State) (n : Nat) : State := { s with cycles := n }

/-! ### The cycle-charging primitives -/

/-- `Tick(n)` (40_engine.md R96). -/
def State.tick (s : State) (n : Nat) : State := { s with cycles := s.cycles + n }

/-- `FetchByte()` (R95): the byte at PC; PC advances modulo 65536; one cycle. -/
def State.fetchByte (s : State) : Byte × State := (s.memRead s.pc, (s.setPc (s.pc + 1)).tick 1)

/-- What `FetchByte()` does to the state when the byte it gives is already in the decoded instruction (log 14). -/
def State.passByte (s : State) : State := s.fetchByte.2

/-- `ReadByte(addr)` (R96): one cycle. -/
def State.readByte (s : State) (addr : Word) : Byte × State := (s.memRead addr, s.tick 1)

/-- `WriteByte(addr, v)` (R96): one cycle. -/
def State.writeByte (s : State) (addr : Word) (v : Byte) : State := (s.memWrite addr v).tick 1

/-! ### The stack pointer controller -/

/-- The address of the stack byte `SP` names, in 0x0100..0x01FF (10_state.md R24, 20_memory.md R54). -/
def stackAddress (sp : Byte) : Word := Config.stackBase + sp.setWidth 16

/-- `Push(v)` (46_stack.md R210): write, decrement modulo 256, one cycle for the decrement. -/
def State.push (s : State) (v : Byte) : State :=
  ((s.writeByte (stackAddress s.sp) v).setSp (s.sp - 1)).tick 1

/-- `Pull()` (R210): increment modulo 256, then read, and a fixed charge (D5, log 5). The increment comes first: C2,
log 16. -/
def State.pull (s : State) : Byte × State :=
  (s.memRead (stackAddress (s.sp + 1)), (s.setSp (s.sp + 1)).tick Config.pullTicks)

/-! ### The unknown opcode and reset -/

/-- `emit UnknownInstruction(op, a0)`: the event goes to the end of `diag` and nothing else changes (40_engine.md R98,
D7). UNVERIFIED content, unsafe for claims about it: log 7. -/
def State.emitUnknown (s : State) (op : Byte) (a0 : Word) : State := { s with diag := s.diag ++ [⟨op, a0⟩] }

/-- `reset()` (70_reset_and_hazards.md R250..R253): every register gets its value and `defined` becomes true; `cycles`,
memory and `diag` are unchanged (D11, log 11). -/
def State.applyReset (s : State) : State :=
  { s with defined := true, pc := Config.resetPc, sp := 0x00, a := 0x00, x := 0x00, y := 0x00, p := 0x00 }

end Sys2Proof.Machine
end

