-- ==== Sys2Proof/Machine/Engine.lean ====
section
/-! DEFINITION. The two instructions that touch neither data register nor memory: NOP (42_nop.md) and the unknown
instruction (40_engine.md R97). -/

namespace Sys2Proof.Machine

/-- NOP (R150): one cycle beyond the opcode fetch, no other effect. -/
def execNop (s : State) : Host.Outcome State Fault Refusal := .next (s.passByte.tick 1)

/-- An unknown instruction (R97): the opcode fetch, then one event with the byte and the address it was fetched from; no
further fetch, cycle or write. -/
def execUnknown (op : Byte) (s : State) : Host.Outcome State Fault Refusal := .next (s.passByte.emitUnknown op s.pc)

end Sys2Proof.Machine
end

