-- ==== Sys2Proof/Machine/Flags.lean ====
section
/-! DEFINITION. The bits of the status register P (10_state.md R26) and the one flag update instructions make
(40_engine.md R99). R42 and R100: no other per-flag write can be reached, so none is given. -/

namespace Sys2Proof.Machine.Flags

/-- `P.C`, bit 0, Carry. -/
def c (p : Byte) : Bool := p.getLsbD 0

/-- `P.Z`, bit 1, Zero. -/
def z (p : Byte) : Bool := p.getLsbD 1

/-- `P.I`, bit 2, InterruptDisable; it masks nothing (60_exceptions.md R225). -/
def i (p : Byte) : Bool := p.getLsbD 2

/-- `P.D`, bit 3, DecimalMode; no effect (R30). -/
def d (p : Byte) : Bool := p.getLsbD 3

/-- `P.B`, bit 4, BreakCommand; a stored bit (R31, D6). -/
def b (p : Byte) : Bool := p.getLsbD 4

/-- `P.U`, bit 5, unused; a stored bit (R32, D6). -/
def u (p : Byte) : Bool := p.getLsbD 5

/-- `P.V`, bit 6, Overflow. -/
def v (p : Byte) : Bool := p.getLsbD 6

/-- `P.N`, bit 7, Negative (R34). -/
def n (p : Byte) : Bool := p.getLsbD 7

/-- The status after `SetZN(val)`: Z is whether the value is 0x00, N is its bit 7, the other six bits stay (R99, C4). -/
def setZN (p val : Byte) : Byte :=
  (p &&& 0x7D) ||| (if val = 0x00 then 0x02 else 0x00) ||| (val &&& 0x80)

end Sys2Proof.Machine.Flags

namespace Sys2Proof.Machine

/-- `SetZN(val)` (40_engine.md R99); it charges no cycle. -/
def State.setZN (s : State) (val : Byte) : State := s.setP (Flags.setZN s.p val)

end Sys2Proof.Machine
end

