-- ==== Sys2Proof/Syntax.lean ====
section
/-! DEFINITION. The instructions, one constructor per row of spec/opcode_table.json (30_encoding.md R78, R80). -/

namespace Sys2Proof

/-- One instruction with its operand. The operand of an absolute form is the assembled 16-bit address; that of every
other two-byte form is its operand byte (30_encoding.md R83). -/
inductive Instr where
  /-- LDA immediate (R161). -/
  | ldaImm (i : Byte)
  /-- LDA zero page (R162). -/
  | ldaZp (z : Byte)
  /-- LDA zero page,X (R163). -/
  | ldaZpX (z : Byte)
  /-- LDA absolute (R164). -/
  | ldaAbs (w : Word)
  /-- LDA absolute,X (R165). -/
  | ldaAbsX (w : Word)
  /-- LDA absolute,Y (R166). -/
  | ldaAbsY (w : Word)
  /-- LDA (zero page,X) (R167). -/
  | ldaIndX (q : Byte)
  /-- LDA (zero page),Y (R168). -/
  | ldaIndY (q : Byte)
  /-- LDX immediate (R169). -/
  | ldxImm (i : Byte)
  /-- LDX zero page (R170). -/
  | ldxZp (z : Byte)
  /-- LDX zero page,Y (R171). -/
  | ldxZpY (z : Byte)
  /-- LDX absolute (R172). -/
  | ldxAbs (w : Word)
  /-- LDX absolute,Y (R173). -/
  | ldxAbsY (w : Word)
  /-- LDY immediate (R174). -/
  | ldyImm (i : Byte)
  /-- LDY zero page (R175). -/
  | ldyZp (z : Byte)
  /-- LDY zero page,X (R176). -/
  | ldyZpX (z : Byte)
  /-- LDY absolute (R177). -/
  | ldyAbs (w : Word)
  /-- LDY absolute,X (R178). -/
  | ldyAbsX (w : Word)
  /-- STA zero page (R181). -/
  | staZp (z : Byte)
  /-- STA zero page,X (R182). -/
  | staZpX (z : Byte)
  /-- STA absolute (R183). -/
  | staAbs (w : Word)
  /-- STA absolute,X (R184). -/
  | staAbsX (w : Word)
  /-- STA absolute,Y (R185). -/
  | staAbsY (w : Word)
  /-- STA (zero page,X) (R186). -/
  | staIndX (q : Byte)
  /-- STA (zero page),Y (R187). -/
  | staIndY (q : Byte)
  /-- STX zero page (R188). -/
  | stxZp (z : Byte)
  /-- STX zero page,Y (R189). -/
  | stxZpY (z : Byte)
  /-- STX absolute (R190). -/
  | stxAbs (w : Word)
  /-- STY zero page (R191). -/
  | styZp (z : Byte)
  /-- STY zero page,X (R192). -/
  | styZpX (z : Byte)
  /-- STY absolute (R193). -/
  | styAbs (w : Word)
  /-- TAX (R201). -/
  | tax
  /-- TAY (R202). -/
  | tay
  /-- TXA (R203). -/
  | txa
  /-- TYA (R204). -/
  | tya
  /-- TSX (R205). -/
  | tsx
  /-- TXS (R206). -/
  | txs
  /-- PHA (R211). -/
  | pha
  /-- PHP (R212). -/
  | php
  /-- PLA (R213). -/
  | pla
  /-- PLP (R214). -/
  | plp
  /-- NOP (R150). -/
  | nop
  /-- An unknown instruction: an opcode byte with no entry in the dispatch table (R80, R97). -/
  | unknown (op : Byte)
  deriving DecidableEq, Repr

end Sys2Proof
end

