-- ==== Sys2Proof/Decode.lean ====
section
/-! DEFINITION. Decoding bytes into instructions and encoding instructions into bytes (30_encoding.md), with the
byte-order helpers. Decoding is total: every byte string that holds a whole instruction decodes (an unassigned opcode
byte is an unknown instruction, R80), and one that is cut short is rejected by name. -/

namespace Sys2Proof

/-- `hi8 w`, bits 15..8 (00_scope.md section 4). -/
def hi8 (w : Word) : Byte := w.extractLsb' 8 8

/-- `lo8 w`, bits 7..0 (00_scope.md section 4). -/
def lo8 (w : Word) : Byte := w.extractLsb' 0 8

/-- `hi ++ lo`, the value `hi * 256 + lo` (00_scope.md section 4, Concatenation). -/
def wordOf (hi lo : Byte) : Word := hi ++ lo

/-- The address an absolute form's two operand bytes name, in fetch order: high byte first (R76, R124). UNVERIFIED
against the source's code (I10), unsafe: log 15. -/
def absOperand (b1 b2 : Byte) : Word := if Config.absHighFirst then wordOf b1 b2 else wordOf b2 b1

/-- The two operand bytes of an absolute form, in address order (R76). -/
def absBytes (w : Word) : List Byte := if Config.absHighFirst then [hi8 w, lo8 w] else [lo8 w, hi8 w]

/-- What the decoder does once the opcode byte has selected an entry: build the instruction from no operand byte
(format I), from one (formats M, Z, N) or from two (format A) (R72..R77). -/
inductive Handler where
  | implied (i : Instr)
  | byteOperand (mk : Byte → Instr)
  | wordOperand (mk : Word → Instr)

/-- One entry of the dispatch table: the full opcode byte and its handler (R78). -/
structure OpcodeRow where
  opcode : Byte
  handler : Handler

/-- The rows of LDA, LDX and LDY (R78; 43_loads.md). Values other than 0xA9 and 0xAD are the spec's general knowledge (D1). UNVERIFIED, unsafe: log 1. -/
def loadRows : List OpcodeRow :=
  [⟨0xA9, .byteOperand .ldaImm⟩,
   ⟨0xA5, .byteOperand .ldaZp⟩,
   ⟨0xB5, .byteOperand .ldaZpX⟩,
   ⟨0xAD, .wordOperand .ldaAbs⟩,
   ⟨0xBD, .wordOperand .ldaAbsX⟩,
   ⟨0xB9, .wordOperand .ldaAbsY⟩] ++
  [⟨0xA1, .byteOperand .ldaIndX⟩,
   ⟨0xB1, .byteOperand .ldaIndY⟩,
   ⟨0xA2, .byteOperand .ldxImm⟩,
   ⟨0xA6, .byteOperand .ldxZp⟩,
   ⟨0xB6, .byteOperand .ldxZpY⟩,
   ⟨0xAE, .wordOperand .ldxAbs⟩] ++
  [⟨0xBE, .wordOperand .ldxAbsY⟩,
   ⟨0xA0, .byteOperand .ldyImm⟩,
   ⟨0xA4, .byteOperand .ldyZp⟩,
   ⟨0xB4, .byteOperand .ldyZpX⟩,
   ⟨0xAC, .wordOperand .ldyAbs⟩,
   ⟨0xBC, .wordOperand .ldyAbsX⟩]

/-- The rows of STA, STX and STY (R78; 44_stores.md). Values other than 0xA9 and 0xAD are the spec's general knowledge (D1). UNVERIFIED, unsafe: log 1. -/
def storeRows : List OpcodeRow :=
  [⟨0x85, .byteOperand .staZp⟩,
   ⟨0x95, .byteOperand .staZpX⟩,
   ⟨0x8D, .wordOperand .staAbs⟩,
   ⟨0x9D, .wordOperand .staAbsX⟩,
   ⟨0x99, .wordOperand .staAbsY⟩,
   ⟨0x81, .byteOperand .staIndX⟩] ++
  [⟨0x91, .byteOperand .staIndY⟩,
   ⟨0x86, .byteOperand .stxZp⟩,
   ⟨0x96, .byteOperand .stxZpY⟩,
   ⟨0x8E, .wordOperand .stxAbs⟩,
   ⟨0x84, .byteOperand .styZp⟩,
   ⟨0x94, .byteOperand .styZpX⟩] ++
  [⟨0x8C, .wordOperand .styAbs⟩]

/-- The rows of the transfers, the stack instructions and NOP (R78; 45_transfers.md, 46_stack.md, 42_nop.md). Values other than 0xA9 and 0xAD are the spec's general knowledge (D1). UNVERIFIED, unsafe: log 1. -/
def impliedRows : List OpcodeRow :=
  [⟨0xAA, .implied .tax⟩,
   ⟨0xA8, .implied .tay⟩,
   ⟨0x8A, .implied .txa⟩,
   ⟨0x98, .implied .tya⟩,
   ⟨0xBA, .implied .tsx⟩,
   ⟨0x9A, .implied .txs⟩] ++
  [⟨0x48, .implied .pha⟩,
   ⟨0x08, .implied .php⟩,
   ⟨0x68, .implied .pla⟩,
   ⟨0x28, .implied .plp⟩,
   ⟨0xEA, .implied .nop⟩]

/-- The dispatch table's 42 entries (R78). -/
def opcodeTable : List OpcodeRow := loadRows ++ storeRows ++ impliedRows

/-- `DispatchTable`: the handler the whole opcode byte selects, or none for an unknown instruction (R72, R101). -/
def dispatchTable (op : Byte) : Option Handler :=
  (opcodeTable.find? (fun r => r.opcode == op)).map OpcodeRow.handler

/-- How many operand bytes follow the opcode byte (R71): a function of that byte alone (R82). -/
def operandCount (op : Byte) : Nat :=
  match dispatchTable op with
  | none => 0
  | some (.implied _) => 0
  | some (.byteOperand _) => 1
  | some (.wordOperand _) => 2

/-- The instruction that an opcode byte and the two bytes after it hold. Bytes beyond the instruction's length are not
used (R71). -/
def decodeWindow (op b1 b2 : Byte) : Instr :=
  match dispatchTable op with
  | none => .unknown op
  | some (.implied i) => i
  | some (.byteOperand mk) => mk b1
  | some (.wordOperand mk) => mk (absOperand b1 b2)

/-- Why a byte string holds no whole instruction. -/
inductive DecodeReject where
  /-- There is no opcode byte. -/
  | noOpcode
  /-- The bytes end before the operand of this opcode does (R70, R71). -/
  | missingOperand (op : Byte)
  deriving DecidableEq, Repr

/-- Decode the instruction at the head of a byte string: it and the bytes after it, or a named rejection (R70..R72). -/
def decode : List Byte → Except DecodeReject (Instr × List Byte)
  | [] => .error .noOpcode
  | op :: rest =>
    if rest.length < operandCount op then .error (.missingOperand op)
    else .ok (decodeWindow op (rest.getD 0 0) (rest.getD 1 0), rest.drop (operandCount op))

/-- An instruction's opcode byte, written from the encoding lines of the family files (`opcodeOf`, D1). UNVERIFIED but
for 0xA9 and 0xAD, unsafe: log 1. -/
def Instr.opcode : Instr → Byte
  | .ldaImm _ => 0xA9
  | .ldaZp _ => 0xA5
  | .ldaZpX _ => 0xB5
  | .ldaAbs _ => 0xAD
  | .ldaAbsX _ => 0xBD
  | .ldaAbsY _ => 0xB9
  | .ldaIndX _ => 0xA1
  | .ldaIndY _ => 0xB1
  | .ldxImm _ => 0xA2
  | .ldxZp _ => 0xA6
  | .ldxZpY _ => 0xB6
  | .ldxAbs _ => 0xAE
  | .ldxAbsY _ => 0xBE
  | .ldyImm _ => 0xA0
  | .ldyZp _ => 0xA4
  | .ldyZpX _ => 0xB4
  | .ldyAbs _ => 0xAC
  | .ldyAbsX _ => 0xBC
  | .staZp _ => 0x85
  | .staZpX _ => 0x95
  | .staAbs _ => 0x8D
  | .staAbsX _ => 0x9D
  | .staAbsY _ => 0x99
  | .staIndX _ => 0x81
  | .staIndY _ => 0x91
  | .stxZp _ => 0x86
  | .stxZpY _ => 0x96
  | .stxAbs _ => 0x8E
  | .styZp _ => 0x84
  | .styZpX _ => 0x94
  | .styAbs _ => 0x8C
  | .tax => 0xAA
  | .tay => 0xA8
  | .txa => 0x8A
  | .tya => 0x98
  | .tsx => 0xBA
  | .txs => 0x9A
  | .pha => 0x48
  | .php => 0x08
  | .pla => 0x68
  | .plp => 0x28
  | .nop => 0xEA
  | .unknown op => op

/-- An instruction's operand bytes in address order (R73..R77). -/
def Instr.operandBytes : Instr → List Byte
  | .ldaImm b => [b]
  | .ldaZp b => [b]
  | .ldaZpX b => [b]
  | .ldaAbs w => absBytes w
  | .ldaAbsX w => absBytes w
  | .ldaAbsY w => absBytes w
  | .ldaIndX b => [b]
  | .ldaIndY b => [b]
  | .ldxImm b => [b]
  | .ldxZp b => [b]
  | .ldxZpY b => [b]
  | .ldxAbs w => absBytes w
  | .ldxAbsY w => absBytes w
  | .ldyImm b => [b]
  | .ldyZp b => [b]
  | .ldyZpX b => [b]
  | .ldyAbs w => absBytes w
  | .ldyAbsX w => absBytes w
  | .staZp b => [b]
  | .staZpX b => [b]
  | .staAbs w => absBytes w
  | .staAbsX w => absBytes w
  | .staAbsY w => absBytes w
  | .staIndX b => [b]
  | .staIndY b => [b]
  | .stxZp b => [b]
  | .stxZpY b => [b]
  | .stxAbs w => absBytes w
  | .styZp b => [b]
  | .styZpX b => [b]
  | .styAbs w => absBytes w
  | .tax => []
  | .tay => []
  | .txa => []
  | .tya => []
  | .tsx => []
  | .txs => []
  | .pha => []
  | .php => []
  | .pla => []
  | .plp => []
  | .nop => []
  | .unknown _ => []

/-- The bytes of a well-formed instruction, opcode first (R70). -/
def encode (i : Instr) : List Byte := i.opcode :: i.operandBytes

/-- An instruction's length in bytes (R71): 1, 2 or 3. -/
def Instr.length : Instr → Nat
  | .tax => 1
  | .tay => 1
  | .txa => 1
  | .tya => 1
  | .tsx => 1
  | .txs => 1
  | .pha => 1
  | .php => 1
  | .pla => 1
  | .plp => 1
  | .nop => 1
  | .ldaImm _ => 2
  | .ldaZp _ => 2
  | .ldaZpX _ => 2
  | .ldaIndX _ => 2
  | .ldaIndY _ => 2
  | .ldxImm _ => 2
  | .ldxZp _ => 2
  | .ldxZpY _ => 2
  | .ldyImm _ => 2
  | .ldyZp _ => 2
  | .ldyZpX _ => 2
  | .staZp _ => 2
  | .staZpX _ => 2
  | .staIndX _ => 2
  | .staIndY _ => 2
  | .stxZp _ => 2
  | .stxZpY _ => 2
  | .styZp _ => 2
  | .styZpX _ => 2
  | .ldaAbs _ => 3
  | .ldaAbsX _ => 3
  | .ldaAbsY _ => 3
  | .ldxAbs _ => 3
  | .ldxAbsY _ => 3
  | .ldyAbs _ => 3
  | .ldyAbsX _ => 3
  | .staAbs _ => 3
  | .staAbsX _ => 3
  | .staAbsY _ => 3
  | .stxAbs _ => 3
  | .styAbs _ => 3
  | .unknown _ => 1

/-- Byte `k` of the number `w` whose lowest `nbits` bits count, byte 0 the least significant. -/
def tableByte (nbits w k : Nat) : Byte := BitVec.ofNat 8 (w % 2 ^ nbits / 256 ^ k)

/-- The bytes of an opcode-table word in address order: the first byte is bits 7..0, the next bits 15..8, then 23..16,
and every bit from `nbits` up is 0. Three bytes: the longest instruction (R70). -/
def tableBytes (nbits w : Nat) : List Byte := [tableByte nbits w 0, tableByte nbits w 1, tableByte nbits w 2]

/-- The instruction the decoder reads from an opcode-table word; none where it rejects. -/
def decodeTableWord (nbits w : Nat) : Option Instr :=
  match decode (tableBytes nbits w) with
  | .ok (i, _) => some i
  | .error _ => none

end Sys2Proof
end

