-- ==== Sys2Proof/Machine/Operands.lean ====
section
/-! DEFINITION. The addressing forms (41_addressing.md): for each, the address as a plain function, and the resolver that
also charges its cycles and advances PC. A resolver runs right after the opcode fetch and gets its operand from the decoded
instruction; `passByte` stands for each operand fetch (R120, log 14). -/

namespace Sys2Proof.Machine

/-! ### Addresses -/

/-- `zext_16(b)` (00_scope.md section 4). -/
def zext16 (b : Byte) : Word := b.setWidth 16

/-- Zero page,X and zero page,Y: `zext_16((z + idx) mod 2^8)`, wrapped inside page 0 (R123). -/
def zeroPageIndexedEa (z idx : Byte) : Word := zext16 (z + idx)

/-- The indexed 16-bit addition `(base + zext_16(idx)) mod 2^16` (R132, D2). UNVERIFIED past 0xFFFF, unsafe: log 2. -/
def indexedEa (base : Word) (idx : Byte) : Word := base + zext16 idx

/-- `Crossed(ea, idx)`: the low byte of the result is less than the index (R127). -/
def crossed (ea : Word) (idx : Byte) : Bool := decide (lo8 ea < idx)

/-- The 16-bit pointer at `q` in page 0, low byte first, its high byte at the wrapped successor (R129). -/
def pointerAt (s : State) (q : Byte) : Word := wordOf (s.memRead (zext16 (q + 1))) (s.memRead (zext16 q))

/-- The address of the high byte of a `(zp),Y` pointer: the wrapped successor (R129, D3). UNVERIFIED at 0xFF, unsafe:
log 3. -/
def indYHighAddress (q : Byte) : Word := if Config.indYPtrWrap then zext16 (q + 1) else zext16 q + 1

/-- The base a `(zp),Y` form reads (R130, R131). -/
def indYBase (s : State) (q : Byte) : Word := wordOf (s.memRead (indYHighAddress q)) (s.memRead (zext16 q))

/-! ### Resolvers -/

/-- `Immediate()` (R121): one operand fetch. -/
def immediate (i : Byte) (s : State) : Byte × State := (i, s.passByte)

/-- `ZeroPage()` (R122). -/
def zeroPage (z : Byte) (s : State) : Word × State := (zext16 z, s.passByte)

/-- `ZeroPageIndexed(idx)` (R123): always one cycle for the index addition. -/
def zeroPageIndexed (r : Reg) (z : Byte) (s : State) : Word × State :=
  (zeroPageIndexedEa z (s.reg r), s.passByte.tick 1)

/-- `Absolute()` (R124): two operand fetches. -/
def absolute (w : Word) (s : State) : Word × State := (w, s.passByte.passByte)

/-- `AbsoluteIndexedLoad(idx)` (R125): one more cycle if and only if the page is crossed. -/
def absoluteIndexedLoad (r : Reg) (w : Word) (s : State) : Word × State :=
  let ea := indexedEa w (s.reg r)
  (ea, s.passByte.passByte.tick (if crossed ea (s.reg r) then 1 else 0))

/-- `AbsoluteIndexedStore(idx)` (R126): always one more cycle. -/
def absoluteIndexedStore (r : Reg) (w : Word) (s : State) : Word × State :=
  (indexedEa w (s.reg r), s.passByte.passByte.tick 1)

/-- `ReadPtr(q)` (R129): two one-byte reads, low byte first. -/
def readPtr (q : Byte) (s : State) : Word × State :=
  let lo := s.readByte (zext16 q)
  let hi := lo.2.readByte (zext16 (q + 1))
  (wordOf hi.1 lo.1, hi.2)

/-- `ReadPtr` as the `(zp),Y` forms use it (R130, R131, D3). -/
def readPtrIndY (q : Byte) (s : State) : Word × State :=
  let lo := s.readByte (zext16 q)
  let hi := lo.2.readByte (indYHighAddress q)
  (wordOf hi.1 lo.1, hi.2)

/-- `IndexedIndirectX()` (R128): one cycle for the index addition, then the pointer. -/
def indexedIndirectX (q : Byte) (s : State) : Word × State :=
  readPtr (q + s.x) (s.passByte.tick 1)

/-- `IndirectIndexedYLoad()` (R130). -/
def indirectIndexedYLoad (q : Byte) (s : State) : Word × State :=
  let b := readPtrIndY q s.passByte
  let ea := indexedEa b.1 s.y
  (ea, b.2.tick (if crossed ea s.y then 1 else 0))

/-- `IndirectIndexedYStore()` (R131). -/
def indirectIndexedYStore (q : Byte) (s : State) : Word × State :=
  let b := readPtrIndY q s.passByte
  (indexedEa b.1 s.y, b.2.tick 1)

end Sys2Proof.Machine
end

