-- ==== Sys2Proof/Machine/Loads.lean ====
section
/-! DEFINITION. The loads LDA, LDX and LDY (43_loads.md). Every meaning starts from the state before the opcode fetch:
`passByte` is the opcode fetch of 40_engine.md R101. -/

namespace Sys2Proof.Machine

/-- `Load(r, v)` (R160): the register takes the value, then Z and N follow it. -/
def load (r : Reg) (v : Byte) (s : State) : State := (s.setReg r v).setZN v

/-- A load's immediate form: the operand and the state after its fetch (R160). -/
def loadValue (r : Reg) (o : Byte × State) : State := load r o.1 o.2

/-- A load's memory form: read the resolved address, one cycle, then `Load` (R160). -/
def loadAt (r : Reg) (o : Word × State) : State := loadValue r (o.2.readByte o.1)

/-- LDA immediate (R161). -/
def execLdaImm (i : Byte) (s : State) : Host.Outcome State Fault Refusal :=
  .next (loadValue .a (immediate i s.passByte))

/-- LDA zero page (R162). -/
def execLdaZp (z : Byte) (s : State) : Host.Outcome State Fault Refusal :=
  .next (loadAt .a (zeroPage z s.passByte))

/-- LDA zero page,X (R163). -/
def execLdaZpX (z : Byte) (s : State) : Host.Outcome State Fault Refusal :=
  .next (loadAt .a (zeroPageIndexed .x z s.passByte))

/-- LDA absolute (R164). -/
def execLdaAbs (w : Word) (s : State) : Host.Outcome State Fault Refusal :=
  .next (loadAt .a (absolute w s.passByte))

/-- LDA absolute,X (R165). -/
def execLdaAbsX (w : Word) (s : State) : Host.Outcome State Fault Refusal :=
  .next (loadAt .a (absoluteIndexedLoad .x w s.passByte))

/-- LDA absolute,Y (R166). -/
def execLdaAbsY (w : Word) (s : State) : Host.Outcome State Fault Refusal :=
  .next (loadAt .a (absoluteIndexedLoad .y w s.passByte))

/-- LDA (zero page,X) (R167). -/
def execLdaIndX (q : Byte) (s : State) : Host.Outcome State Fault Refusal :=
  .next (loadAt .a (indexedIndirectX q s.passByte))

/-- LDA (zero page),Y (R168). -/
def execLdaIndY (q : Byte) (s : State) : Host.Outcome State Fault Refusal :=
  .next (loadAt .a (indirectIndexedYLoad q s.passByte))

/-- LDX immediate (R169). -/
def execLdxImm (i : Byte) (s : State) : Host.Outcome State Fault Refusal :=
  .next (loadValue .x (immediate i s.passByte))

/-- LDX zero page (R170). -/
def execLdxZp (z : Byte) (s : State) : Host.Outcome State Fault Refusal :=
  .next (loadAt .x (zeroPage z s.passByte))

/-- LDX zero page,Y (R171). -/
def execLdxZpY (z : Byte) (s : State) : Host.Outcome State Fault Refusal :=
  .next (loadAt .x (zeroPageIndexed .y z s.passByte))

/-- LDX absolute (R172). -/
def execLdxAbs (w : Word) (s : State) : Host.Outcome State Fault Refusal :=
  .next (loadAt .x (absolute w s.passByte))

/-- LDX absolute,Y (R173). -/
def execLdxAbsY (w : Word) (s : State) : Host.Outcome State Fault Refusal :=
  .next (loadAt .x (absoluteIndexedLoad .y w s.passByte))

/-- LDY immediate (R174). -/
def execLdyImm (i : Byte) (s : State) : Host.Outcome State Fault Refusal :=
  .next (loadValue .y (immediate i s.passByte))

/-- LDY zero page (R175). -/
def execLdyZp (z : Byte) (s : State) : Host.Outcome State Fault Refusal :=
  .next (loadAt .y (zeroPage z s.passByte))

/-- LDY zero page,X (R176). -/
def execLdyZpX (z : Byte) (s : State) : Host.Outcome State Fault Refusal :=
  .next (loadAt .y (zeroPageIndexed .x z s.passByte))

/-- LDY absolute (R177). -/
def execLdyAbs (w : Word) (s : State) : Host.Outcome State Fault Refusal :=
  .next (loadAt .y (absolute w s.passByte))

/-- LDY absolute,X (R178). -/
def execLdyAbsX (w : Word) (s : State) : Host.Outcome State Fault Refusal :=
  .next (loadAt .y (absoluteIndexedLoad .x w s.passByte))

end Sys2Proof.Machine
end

