-- ==== Sys2Proof/Machine/Stack.lean ====
section
/-! DEFINITION. The stack instructions (46_stack.md). -/

namespace Sys2Proof.Machine

/-- PHA (R211): push A. -/
def execPha (s : State) : Host.Outcome State Fault Refusal := .next (s.passByte.push s.a)

/-- PHP (R212): push P as stored, no bit forced (D6). UNVERIFIED, unsafe: log 6. -/
def execPhp (s : State) : Host.Outcome State Fault Refusal := .next (s.passByte.push (s.p ||| Config.phpForceMask))

/-- `v <- Pull(); A <- v; SetZN(v)` (R213). -/
def pullIntoA (o : Byte × State) : State := (o.2.setReg .a o.1).setZN o.1

/-- PLA (R213). -/
def execPla (s : State) : Host.Outcome State Fault Refusal := .next (pullIntoA s.passByte.pull)

/-- `v <- Pull(); P <- v`, all eight bits, no Z and N update (R214; bits 4 and 5: D6, log 6). -/
def pullIntoP (o : Byte × State) : State := o.2.setP o.1

/-- PLP (R214). -/
def execPlp (s : State) : Host.Outcome State Fault Refusal := .next (pullIntoP s.passByte.pull)

end Sys2Proof.Machine
end

