-- ==== Sys2Proof/Machine/Stores.lean ====
section
/-! DEFINITION. The stores STA, STX and STY (44_stores.md). -/

namespace Sys2Proof.Machine

/-- `Store(r, ea)` at a resolved address (R180): write the register's value, one cycle, no flag. -/
def storeAt (r : Reg) (o : Word × State) : State := o.2.writeByte o.1 (o.2.reg r)

/-- STA zero page (R181). -/
def execStaZp (z : Byte) (s : State) : Host.Outcome State Fault Refusal :=
  .next (storeAt .a (zeroPage z s.passByte))

/-- STA zero page,X (R182). -/
def execStaZpX (z : Byte) (s : State) : Host.Outcome State Fault Refusal :=
  .next (storeAt .a (zeroPageIndexed .x z s.passByte))

/-- STA absolute (R183). -/
def execStaAbs (w : Word) (s : State) : Host.Outcome State Fault Refusal :=
  .next (storeAt .a (absolute w s.passByte))

/-- STA absolute,X (R184). -/
def execStaAbsX (w : Word) (s : State) : Host.Outcome State Fault Refusal :=
  .next (storeAt .a (absoluteIndexedStore .x w s.passByte))

/-- STA absolute,Y (R185). -/
def execStaAbsY (w : Word) (s : State) : Host.Outcome State Fault Refusal :=
  .next (storeAt .a (absoluteIndexedStore .y w s.passByte))

/-- STA (zero page,X) (R186). -/
def execStaIndX (q : Byte) (s : State) : Host.Outcome State Fault Refusal :=
  .next (storeAt .a (indexedIndirectX q s.passByte))

/-- STA (zero page),Y (R187). -/
def execStaIndY (q : Byte) (s : State) : Host.Outcome State Fault Refusal :=
  .next (storeAt .a (indirectIndexedYStore q s.passByte))

/-- STX zero page (R188). -/
def execStxZp (z : Byte) (s : State) : Host.Outcome State Fault Refusal :=
  .next (storeAt .x (zeroPage z s.passByte))

/-- STX zero page,Y (R189). -/
def execStxZpY (z : Byte) (s : State) : Host.Outcome State Fault Refusal :=
  .next (storeAt .x (zeroPageIndexed .y z s.passByte))

/-- STX absolute (R190). -/
def execStxAbs (w : Word) (s : State) : Host.Outcome State Fault Refusal :=
  .next (storeAt .x (absolute w s.passByte))

/-- STY zero page (R191). -/
def execStyZp (z : Byte) (s : State) : Host.Outcome State Fault Refusal :=
  .next (storeAt .y (zeroPage z s.passByte))

/-- STY zero page,X (R192). -/
def execStyZpX (z : Byte) (s : State) : Host.Outcome State Fault Refusal :=
  .next (storeAt .y (zeroPageIndexed .x z s.passByte))

/-- STY absolute (R193). -/
def execStyAbs (w : Word) (s : State) : Host.Outcome State Fault Refusal :=
  .next (storeAt .y (absolute w s.passByte))

end Sys2Proof.Machine
end

