-- ==== Sys2Proof/Machine/Transfers.lean ====
section
/-! DEFINITION. The register transfers (45_transfers.md). -/

namespace Sys2Proof.Machine

/-- `Transfer(dst, src)` (R200): copy, one cycle, then Z and N from the destination's new value. -/
def transfer (dst src : Reg) (s : State) : State := ((s.setReg dst (s.reg src)).tick 1).setZN (s.reg src)

/-- TAX (R201). -/
def execTax (s : State) : Host.Outcome State Fault Refusal := .next (transfer .x .a s.passByte)

/-- TAY (R202). -/
def execTay (s : State) : Host.Outcome State Fault Refusal := .next (transfer .y .a s.passByte)

/-- TXA (R203). -/
def execTxa (s : State) : Host.Outcome State Fault Refusal := .next (transfer .a .x s.passByte)

/-- TYA (R204). -/
def execTya (s : State) : Host.Outcome State Fault Refusal := .next (transfer .a .y s.passByte)

/-- `X <- SP; Tick(1); SetZN(X)` (R205; the charge is D4, log 4). -/
def transferSpToX (s : State) : State := ((s.setReg .x s.sp).tick Config.spTransferTicks).setZN s.sp

/-- `SP <- X; Tick(1)`, no flag (R206; the charge is D4, log 4). -/
def transferXToSp (s : State) : State := (s.setSp s.x).tick Config.spTransferTicks

/-- TSX (R205). -/
def execTsx (s : State) : Host.Outcome State Fault Refusal := .next (transferSpToX s.passByte)

/-- TXS (R206). -/
def execTxs (s : State) : Host.Outcome State Fault Refusal := .next (transferXToSp s.passByte)

end Sys2Proof.Machine
end

