-- ==== Sys2Proof/Machine/Fetch.lean ====
section
/-! DEFINITION. Reading the instruction at the program counter, and placing bytes there. -/

namespace Sys2Proof.Machine

/-- The bytes at PC, PC+1 and PC+2 modulo 65536, each as `FetchByte()` gives it (40_engine.md R95). -/
def State.window (s : State) : List Byte :=
  [s.fetchByte.1, s.passByte.fetchByte.1, s.passByte.passByte.fetchByte.1]

/-- The instruction at PC (30_encoding.md R72, 40_engine.md R101). It is decoded before its handler runs; the spec's
handlers fetch their operand bytes before any other access (R57) and reads have no side effect (R49), so the bytes are the
same. DEDUCED, safe: log 14. -/
def State.fetchInstr (s : State) : Instr :=
  decodeWindow s.fetchByte.1 s.passByte.fetchByte.1 s.passByte.passByte.fetchByte.1

/-- Memory with the bytes of a list stored from an address up, modulo 65536. -/
def State.placeBytes (s : State) : Word → List Byte → State
  | _, [] => s
  | addr, b :: bs => (s.memWrite addr b).placeBytes (addr + 1) bs

end Sys2Proof.Machine
end

