-- ==== Sys2Proof/Machine/Step.lean ====
section
/-! DEFINITION. One step of the machine (40_engine.md R101), and where the host's own checks place an instruction. -/

namespace Sys2Proof.Machine

/-- `Step()` (R101): run the instruction at PC. Before the first reset it is refused, as `execute` is (R107). -/
def step (s : State) : Host.Outcome State Fault Refusal :=
  if s.defined then exec s.fetchInstr s else .refused .beforeReset

/-- The state with the bytes of an opcode-table word stored where `step` fetches next: what a host does when it loads a
program (70_reset_and_hazards.md R254; log 17). -/
def State.withFetchWord (s : State) (nbits w : Nat) : State := s.placeBytes s.pc (tableBytes nbits w)

end Sys2Proof.Machine
end

