-- ==== Sys2Proof/Machine/Accesses.lean ====
section
/-! DEFINITION. The memory accesses of each instruction, in order: the "Memory accesses" line of its rule and 20_memory.md
R57 (D19, log 20). They are no state of the machine; statements use them to say what an instruction reads and writes. -/

namespace Sys2Proof.Machine

/-- One memory access of one byte (20_memory.md R48). -/
inductive Access where
  | fetch (addr : Word)
  | read (addr : Word)
  | write (addr : Word) (v : Byte)
  deriving DecidableEq, Repr

/-- The address an access names. -/
def Access.addr : Access → Word
  | .fetch a => a
  | .read a => a
  | .write a _ => a

/-- The fetches of an instruction of `n` bytes at `pc`, in address order (R57, R70). -/
def fetches (pc : Word) : Nat → List Access
  | 0 => []
  | n + 1 => .fetch pc :: fetches (pc + 1) n

/-- The pointer reads of `(zp,X)`: low byte, then high byte (R129). -/
def pointerReadsX (s : State) (q : Byte) : List Access := [.read (zext16 (q + s.x)), .read (zext16 (q + s.x + 1))]

/-- The pointer reads of `(zp),Y`: low byte, then high byte (R129, D3). -/
def pointerReadsY (q : Byte) : List Access := [.read (zext16 q), .read (indYHighAddress q)]

/-- The accesses after the operand fetches: pointer reads, then the data read or write (R57). -/
def dataAccesses (i : Instr) (s : State) : List Access :=
  match i with
  | .ldaImm _ => []
  | .ldaZp z => [.read (zext16 z)]
  | .ldaZpX z => [.read (zeroPageIndexedEa z s.x)]
  | .ldaAbs w => [.read w]
  | .ldaAbsX w => [.read (indexedEa w s.x)]
  | .ldaAbsY w => [.read (indexedEa w s.y)]
  | .ldaIndX q => pointerReadsX s q ++ [.read (pointerAt s (q + s.x))]
  | .ldaIndY q => pointerReadsY q ++ [.read (indexedEa (indYBase s q) s.y)]
  | .ldxImm _ => []
  | .ldxZp z => [.read (zext16 z)]
  | .ldxZpY z => [.read (zeroPageIndexedEa z s.y)]
  | .ldxAbs w => [.read w]
  | .ldxAbsY w => [.read (indexedEa w s.y)]
  | .ldyImm _ => []
  | .ldyZp z => [.read (zext16 z)]
  | .ldyZpX z => [.read (zeroPageIndexedEa z s.x)]
  | .ldyAbs w => [.read w]
  | .ldyAbsX w => [.read (indexedEa w s.x)]
  | .staZp z => [.write (zext16 z) s.a]
  | .staZpX z => [.write (zeroPageIndexedEa z s.x) s.a]
  | .staAbs w => [.write w s.a]
  | .staAbsX w => [.write (indexedEa w s.x) s.a]
  | .staAbsY w => [.write (indexedEa w s.y) s.a]
  | .staIndX q => pointerReadsX s q ++ [.write (pointerAt s (q + s.x)) s.a]
  | .staIndY q => pointerReadsY q ++ [.write (indexedEa (indYBase s q) s.y) s.a]
  | .stxZp z => [.write (zext16 z) s.x]
  | .stxZpY z => [.write (zeroPageIndexedEa z s.y) s.x]
  | .stxAbs w => [.write w s.x]
  | .styZp z => [.write (zext16 z) s.y]
  | .styZpX z => [.write (zeroPageIndexedEa z s.x) s.y]
  | .styAbs w => [.write w s.y]
  | .tax => []
  | .tay => []
  | .txa => []
  | .tya => []
  | .tsx => []
  | .txs => []
  | .pha => [.write (stackAddress s.sp) s.a]
  | .php => [.write (stackAddress s.sp) (s.p ||| Config.phpForceMask)]
  | .pla => [.read (stackAddress (s.sp + 1))]
  | .plp => [.read (stackAddress (s.sp + 1))]
  | .nop => []
  | .unknown _ => []

/-- All accesses of an instruction that starts in a state, in order (R57). -/
def accesses (i : Instr) (s : State) : List Access := fetches s.pc i.length ++ dataAccesses i s

end Sys2Proof.Machine
end

