-- ==== Sys2Proof/Machine/Execute.lean ====
section
/-! DEFINITION. `execute(cycle_budget)` (40_engine.md R91..R94): whole instructions until the budget is used up. -/

namespace Sys2Proof.Machine

/-- The loop of R91: while `cycles` is below the budget, one `Step`. `fuel` bounds the steps; `execute` gives it
`max(budget, 0)`, which is enough since every step charges a cycle (R106). DEDUCED, safe: log 18. -/
def executeLoop (budget : Int) : Nat → State → Host.Outcome State Fault Refusal
  | 0, s => .next s
  | fuel + 1, s =>
    if (s.cycles : Int) < budget then
      match step s with
      | .next t => executeLoop budget fuel t
      | .fault f => .fault f
      | .refused r => .refused r
    else .next s

/-- The overrun and the state `execute` ends with, from the state the loop ends in (R93). -/
def overrunOf (budget : Int) : Host.Outcome State Fault Refusal → Host.Outcome (Int × State) Fault Refusal
  | .next t => .next ((t.cycles : Int) - budget, t)
  | .fault f => .fault f
  | .refused r => .refused r

/-- `execute(cycle_budget) -> overrun` (R91), refused before the first reset (R107). -/
def execute (budget : Int) (s : State) : Host.Outcome (Int × State) Fault Refusal :=
  if s.defined then overrunOf budget (executeLoop budget budget.toNat (s.setCycles 0)) else .refused .beforeReset

end Sys2Proof.Machine
end

