-- ==== Sys2Proof/Machine/HostPort.lean ====
section
/-! DEFINITION. What the host may ask of the core and its memory (40_engine.md R90, R102, R103). A request is one
indivisible call, so no request can fall inside an `execute` call (R103, I13; log 12). Creation is `State.created`. -/

namespace Sys2Proof.Machine

/-- One operation of the host (R103). There is none that sets a register or reads `cycles` (R90, R103). -/
inductive HostRequest where
  /-- `reset()`. -/
  | reset
  /-- `execute(cycle_budget)`. -/
  | execute (budget : Int)
  /-- A read-only accessor (R102). -/
  | readRegister (r : RegName)
  /-- The memory port's `read`. -/
  | readMemory (addr : Nat)
  /-- The memory port's `write`. -/
  | writeMemory (addr : Nat) (v : Byte)
  /-- Reading the diagnostic events. -/
  | readDiag
  deriving DecidableEq, Repr

/-- What a request gives back. -/
inductive HostReply where
  /-- Nothing. -/
  | done
  /-- `execute`'s overrun. -/
  | overrun (n : Int)
  /-- An 8-bit register or a memory byte. -/
  | byte (v : Byte)
  /-- The 16-bit PC. -/
  | word (w : Word)
  /-- The events, oldest first. -/
  | events (es : List UnknownInstruction)
  deriving DecidableEq, Repr

/-- A register's current value, as its accessor gives it (R102). -/
def State.accessor (s : State) : RegName → HostReply
  | .a => .byte s.a
  | .x => .byte s.x
  | .y => .byte s.y
  | .sp => .byte s.sp
  | .p => .byte s.p
  | .pc => .word s.pc

/-- An accessor call: refused before the first reset (R102, R107). -/
def hostReadRegister (r : RegName) (s : State) : Host.Outcome (State × HostReply) Fault Refusal :=
  if s.defined then .next (s, s.accessor r) else .refused .beforeReset

/-- An `execute` call (R91). -/
def hostExecute (budget : Int) (s : State) : Host.Outcome (State × HostReply) Fault Refusal :=
  match execute budget s with
  | .next (n, t) => .next (t, .overrun n)
  | .fault f => .fault f
  | .refused r => .refused r

/-- A read through the memory port (20_memory.md R46, R47, R62). -/
def hostReadMemory (addr : Nat) (s : State) : Host.Outcome (State × HostReply) Fault Refusal :=
  match s.portRead addr with
  | .next v => .next (s, .byte v)
  | .fault f => .fault f
  | .refused r => .refused r

/-- A write through the memory port (R46, R47, R62). -/
def hostWriteMemory (addr : Nat) (v : Byte) (s : State) : Host.Outcome (State × HostReply) Fault Refusal :=
  match s.portWrite addr v with
  | .next t => .next (t, .done)
  | .fault f => .fault f
  | .refused r => .refused r

/-- One request of the host (R103). -/
def hostCall (q : HostRequest) (s : State) : Host.Outcome (State × HostReply) Fault Refusal :=
  match q with
  | .reset => .next (s.applyReset, .done)
  | .execute budget => hostExecute budget s
  | .readRegister r => hostReadRegister r s
  | .readMemory addr => hostReadMemory addr s
  | .writeMemory addr v => hostWriteMemory addr v s
  | .readDiag => .next (s, .events s.diag)

/-- A host's requests in order, with the replies; the first fault or refusal ends the sequence (60_exceptions.md R221). -/
def hostRun : List HostRequest → State → Host.Outcome (State × List HostReply) Fault Refusal
  | [], s => .next (s, [])
  | q :: qs, s =>
    match hostCall q s with
    | .fault f => .fault f
    | .refused r => .refused r
    | .next (t, reply) =>
      match hostRun qs t with
      | .fault f => .fault f
      | .refused r => .refused r
      | .next (u, replies) => .next (u, reply :: replies)

end Sys2Proof.Machine
end

