-- ==== Sys2Proof/WellFormed.lean ====
section
/-! DEFINITION. Which instruction terms stand for an instruction of the machine. Every operand value is legal
(30_encoding.md R74..R77), so the one check is on the unknown instruction: its opcode byte has no entry in the dispatch
table (R80). -/

namespace Sys2Proof

/-- The opcode byte has no entry in the dispatch table: one of the 214 values of R80. -/
def isUnknownOpcode (op : Byte) : Bool := (dispatchTable op).isNone

/-- An instruction the decoder can give. -/
def Instr.wellFormed : Instr → Bool
  | .ldaImm _ => true
  | .ldaZp _ => true
  | .ldaZpX _ => true
  | .ldaAbs _ => true
  | .ldaAbsX _ => true
  | .ldaAbsY _ => true
  | .ldaIndX _ => true
  | .ldaIndY _ => true
  | .ldxImm _ => true
  | .ldxZp _ => true
  | .ldxZpY _ => true
  | .ldxAbs _ => true
  | .ldxAbsY _ => true
  | .ldyImm _ => true
  | .ldyZp _ => true
  | .ldyZpX _ => true
  | .ldyAbs _ => true
  | .ldyAbsX _ => true
  | .staZp _ => true
  | .staZpX _ => true
  | .staAbs _ => true
  | .staAbsX _ => true
  | .staAbsY _ => true
  | .staIndX _ => true
  | .staIndY _ => true
  | .stxZp _ => true
  | .stxZpY _ => true
  | .stxAbs _ => true
  | .styZp _ => true
  | .styZpX _ => true
  | .styAbs _ => true
  | .tax => true
  | .tay => true
  | .txa => true
  | .tya => true
  | .tsx => true
  | .txs => true
  | .pha => true
  | .php => true
  | .pla => true
  | .plp => true
  | .nop => true
  | .unknown op => isUnknownOpcode op

end Sys2Proof
end

