-- ==== Sys2Proof/Safety.lean ====
section
/-! DEFINITION. The terms statements are made in: the invariant, a run that does not stop, and what the families of
instructions leave behind. -/

namespace Sys2Proof.Safety

open Sys2Proof.Machine

/-- The invariant of a machine that has been reset: the registers are defined (10_state.md R37), the memory has its
canonical form (log 23), and every recorded event names an unknown opcode (R38). -/
abbrev Inv (s : State) : Prop :=
  s.defined = true ∧ s.mem.wf ∧ ∀ e ∈ s.diag, isUnknownOpcode e.opcode = true

/-- A request that neither faults nor is refused. -/
def Safe {σ : Type} (o : Host.Outcome σ Fault Refusal) : Prop := ∃ t, o = .next t

/-- The status after `SetZN(v)`, bit by bit: Z is whether `v` is 0x00, N is bit 7 of `v`, and C, I, D, B, U and V are
unchanged (40_engine.md R99). -/
def ZNFrom (p p' v : Byte) : Prop :=
  Flags.z p' = (v == 0x00) ∧ Flags.n p' = v.getLsbD 7 ∧ Flags.c p' = Flags.c p ∧ Flags.i p' = Flags.i p ∧
    Flags.d p' = Flags.d p ∧ Flags.b p' = Flags.b p ∧ Flags.u p' = Flags.u p ∧ Flags.v p' = Flags.v p

/-- Every byte of memory reads as before. -/
def MemorySame (s t : State) : Prop := ∀ k : Word, t.memRead k = s.memRead k

/-- The byte at `ea` now reads `v`, and every other byte as before. -/
def MemorySameBut (ea : Word) (v : Byte) (s t : State) : Prop :=
  t.memRead ea = v ∧ ∀ k : Word, k ≠ ea → t.memRead k = s.memRead k

/-- PC advanced by `len` bytes modulo 65536, `cycles` grew by `cyc`, and `defined` and `diag` are unchanged. -/
def Advanced (len cyc : Nat) (s t : State) : Prop :=
  t.pc.toNat = (s.pc.toNat + len) % 65536 ∧ t.cycles = s.cycles + cyc ∧ t.defined = s.defined ∧ t.diag = s.diag

/-- What a load leaves: `r` holds `v`, Z and N follow `v`, and nothing else changed but PC and `cycles`. -/
def Loaded (r : Reg) (v : Byte) (len cyc : Nat) (s t : State) : Prop :=
  t.reg r = v ∧ (∀ q, q ≠ r → t.reg q = s.reg q) ∧ t.sp = s.sp ∧ ZNFrom s.p t.p v ∧ MemorySame s t ∧
    Advanced len cyc s t

/-- What a store leaves: the byte at `ea` is `v`, and nothing else changed but PC and `cycles`. -/
def Stored (v : Byte) (ea : Word) (len cyc : Nat) (s t : State) : Prop :=
  MemorySameBut ea v s t ∧ (∀ q, t.reg q = s.reg q) ∧ t.sp = s.sp ∧ t.p = s.p ∧ Advanced len cyc s t

/-- What a push leaves: the byte at the old stack address is `v`, SP is one less modulo 256, and nothing else changed but PC
and `cycles`. -/
def Pushed (v : Byte) (s t : State) : Prop :=
  MemorySameBut (stackAddress s.sp) v s t ∧ t.sp.toNat = (s.sp.toNat + 255) % 256 ∧ (∀ q, t.reg q = s.reg q) ∧
    t.p = s.p ∧ Advanced 1 3 s t

/-- Adding the index to the low byte of the base carries out of that byte (41_addressing.md R127). -/
abbrev Carries (base : Word) (idx : Byte) : Prop := 256 ≤ base.toNat % 256 + idx.toNat

/-- The registers, `defined` and `diag` of two states agree; their memories and `cycles` may differ. -/
def SameRegisters (s t : State) : Prop :=
  (∀ q, t.reg q = s.reg q) ∧ t.sp = s.sp ∧ t.p = s.p ∧ t.pc = s.pc ∧ t.defined = s.defined ∧ t.diag = s.diag

/-- The register whose new value an instruction gives to `SetZN`, if it does (40_engine.md R99, 10_state.md R28). -/
def znRegister : Instr → Option Reg
  | .ldaImm _ | .ldaZp _ | .ldaZpX _ | .ldaAbs _ | .ldaAbsX _ | .ldaAbsY _ | .ldaIndX _ | .ldaIndY _ | .txa
  | .tya | .pla => some .a
  | .ldxImm _ | .ldxZp _ | .ldxZpY _ | .ldxAbs _ | .ldxAbsY _ | .tax | .tsx => some .x
  | .ldyImm _ | .ldyZp _ | .ldyZpX _ | .ldyAbs _ | .ldyAbsX _ | .tay => some .y
  | .staZp _ | .staZpX _ | .staAbs _ | .staAbsX _ | .staAbsY _ | .staIndX _ | .staIndY _ | .stxZp _
  | .stxZpY _ | .stxAbs _ | .styZp _ | .styZpX _ | .styAbs _ | .txs | .pha | .php | .plp | .nop
  | .unknown _ => none

/-- The instructions that write memory: the stores, PHA and PHP (20_memory.md R63). -/
def writesMemory : Instr → Bool
  | .staZp _ | .staZpX _ | .staAbs _ | .staAbsX _ | .staAbsY _ | .staIndX _ | .staIndY _ | .stxZp _
  | .stxZpY _ | .stxAbs _ | .styZp _ | .styZpX _ | .styAbs _ | .pha | .php => true
  | .ldaImm _ | .ldaZp _ | .ldaZpX _ | .ldaAbs _ | .ldaAbsX _ | .ldaAbsY _ | .ldaIndX _ | .ldaIndY _
  | .ldxImm _ | .ldxZp _ | .ldxZpY _ | .ldxAbs _ | .ldxAbsY _ | .ldyImm _ | .ldyZp _ | .ldyZpX _
  | .ldyAbs _ | .ldyAbsX _ | .tax | .tay | .txa | .tya | .tsx | .txs | .pla | .plp | .nop | .unknown _ => false

end Sys2Proof.Safety
end

