-- ==== Sys2Proof/Certificates/Slice0/Obligations.lean ====
section
/-! DEFINITION. The statements about this machine, for the provers. Each docstring names the rule of spec/ it formalises
and, where it rests on a decision of the spec or of the model, the decision and its log entry. -/

namespace Sys2Proof.Safety

/-- The 214 unknown opcode bytes, copied from the list in 30_encoding.md R80. -/
def unknownBytes : List Nat :=
  [0x00, 0x01, 0x02, 0x03, 0x04, 0x05, 0x06, 0x07, 0x09, 0x0A, 0x0B, 0x0C, 0x0D, 0x0E, 0x0F, 0x10, 0x11, 0x12] ++
  [0x13, 0x14, 0x15, 0x16, 0x17, 0x18, 0x19, 0x1A, 0x1B, 0x1C, 0x1D, 0x1E, 0x1F, 0x20, 0x21, 0x22, 0x23, 0x24] ++
  [0x25, 0x26, 0x27, 0x29, 0x2A, 0x2B, 0x2C, 0x2D, 0x2E, 0x2F, 0x30, 0x31, 0x32, 0x33, 0x34, 0x35, 0x36, 0x37] ++
  [0x38, 0x39, 0x3A, 0x3B, 0x3C, 0x3D, 0x3E, 0x3F, 0x40, 0x41, 0x42, 0x43, 0x44, 0x45, 0x46, 0x47, 0x49, 0x4A] ++
  [0x4B, 0x4C, 0x4D, 0x4E, 0x4F, 0x50, 0x51, 0x52, 0x53, 0x54, 0x55, 0x56, 0x57, 0x58, 0x59, 0x5A, 0x5B, 0x5C] ++
  [0x5D, 0x5E, 0x5F, 0x60, 0x61, 0x62, 0x63, 0x64, 0x65, 0x66, 0x67, 0x69, 0x6A, 0x6B, 0x6C, 0x6D, 0x6E, 0x6F] ++
  [0x70, 0x71, 0x72, 0x73, 0x74, 0x75, 0x76, 0x77, 0x78, 0x79, 0x7A, 0x7B, 0x7C, 0x7D, 0x7E, 0x7F, 0x80, 0x82] ++
  [0x83, 0x87, 0x88, 0x89, 0x8B, 0x8F, 0x90, 0x92, 0x93, 0x97, 0x9B, 0x9C, 0x9E, 0x9F, 0xA3, 0xA7, 0xAB, 0xAF] ++
  [0xB0, 0xB2, 0xB3, 0xB7, 0xB8, 0xBB, 0xBF, 0xC0, 0xC1, 0xC2, 0xC3, 0xC4, 0xC5, 0xC6, 0xC7, 0xC8, 0xC9, 0xCA] ++
  [0xCB, 0xCC, 0xCD, 0xCE, 0xCF, 0xD0, 0xD1, 0xD2, 0xD3, 0xD4, 0xD5, 0xD6, 0xD7, 0xD8, 0xD9, 0xDA, 0xDB, 0xDC] ++
  [0xDD, 0xDE, 0xDF, 0xE0, 0xE1, 0xE2, 0xE3, 0xE4, 0xE5, 0xE6, 0xE7, 0xE8, 0xE9, 0xEB, 0xEC, 0xED, 0xEE, 0xEF] ++
  [0xF0, 0xF1, 0xF2, 0xF3, 0xF4, 0xF5, 0xF6, 0xF7, 0xF8, 0xF9, 0xFA, 0xFB, 0xFC, 0xFD, 0xFE, 0xFF]

end Sys2Proof.Safety

open Sys2Proof Sys2Proof.Machine Sys2Proof.Safety

/-- Each opcode byte of 30_encoding.md R78 selects its instruction. The values other than 0xA9 and 0xAD are the spec's decision
D1 (log 1). -/
def Obligations.OpcodeBytesSelectTheirInstructions : Prop :=
  ∀ b1 b2 : Byte,
    decodeWindow 0xA9 b1 b2 = .ldaImm b1 ∧
    decodeWindow 0xA5 b1 b2 = .ldaZp b1 ∧
    decodeWindow 0xB5 b1 b2 = .ldaZpX b1 ∧
    decodeWindow 0xAD b1 b2 = .ldaAbs (wordOf b1 b2) ∧
    decodeWindow 0xBD b1 b2 = .ldaAbsX (wordOf b1 b2) ∧
    decodeWindow 0xB9 b1 b2 = .ldaAbsY (wordOf b1 b2) ∧
    decodeWindow 0xA1 b1 b2 = .ldaIndX b1 ∧
    decodeWindow 0xB1 b1 b2 = .ldaIndY b1 ∧
    decodeWindow 0xA2 b1 b2 = .ldxImm b1 ∧
    decodeWindow 0xA6 b1 b2 = .ldxZp b1 ∧
    decodeWindow 0xB6 b1 b2 = .ldxZpY b1 ∧
    decodeWindow 0xAE b1 b2 = .ldxAbs (wordOf b1 b2) ∧
    decodeWindow 0xBE b1 b2 = .ldxAbsY (wordOf b1 b2) ∧
    decodeWindow 0xA0 b1 b2 = .ldyImm b1 ∧
    decodeWindow 0xA4 b1 b2 = .ldyZp b1 ∧
    decodeWindow 0xB4 b1 b2 = .ldyZpX b1 ∧
    decodeWindow 0xAC b1 b2 = .ldyAbs (wordOf b1 b2) ∧
    decodeWindow 0xBC b1 b2 = .ldyAbsX (wordOf b1 b2) ∧
    decodeWindow 0x85 b1 b2 = .staZp b1 ∧
    decodeWindow 0x95 b1 b2 = .staZpX b1 ∧
    decodeWindow 0x8D b1 b2 = .staAbs (wordOf b1 b2) ∧
    decodeWindow 0x9D b1 b2 = .staAbsX (wordOf b1 b2) ∧
    decodeWindow 0x99 b1 b2 = .staAbsY (wordOf b1 b2) ∧
    decodeWindow 0x81 b1 b2 = .staIndX b1 ∧
    decodeWindow 0x91 b1 b2 = .staIndY b1 ∧
    decodeWindow 0x86 b1 b2 = .stxZp b1 ∧
    decodeWindow 0x96 b1 b2 = .stxZpY b1 ∧
    decodeWindow 0x8E b1 b2 = .stxAbs (wordOf b1 b2) ∧
    decodeWindow 0x84 b1 b2 = .styZp b1 ∧
    decodeWindow 0x94 b1 b2 = .styZpX b1 ∧
    decodeWindow 0x8C b1 b2 = .styAbs (wordOf b1 b2) ∧
    decodeWindow 0xAA b1 b2 = .tax ∧
    decodeWindow 0xA8 b1 b2 = .tay ∧
    decodeWindow 0x8A b1 b2 = .txa ∧
    decodeWindow 0x98 b1 b2 = .tya ∧
    decodeWindow 0xBA b1 b2 = .tsx ∧
    decodeWindow 0x9A b1 b2 = .txs ∧
    decodeWindow 0x48 b1 b2 = .pha ∧
    decodeWindow 0x08 b1 b2 = .php ∧
    decodeWindow 0x68 b1 b2 = .pla ∧
    decodeWindow 0x28 b1 b2 = .plp ∧
    decodeWindow 0xEA b1 b2 = .nop

/-- Decode of encode is the identity on well-formed instructions (30_encoding.md R70..R80; opcode bytes D1, log 1). -/
def Obligations.EncodeThenDecodeGivesTheInstruction : Prop :=
  ∀ (i : Instr) (rest : List Byte), i.wellFormed = true → decode (encode i ++ rest) = .ok (i, rest)

/-- No two byte strings of the same instruction differ, and no bit of one is dropped (30_encoding.md R70..R72, R80). -/
def Obligations.DecodeThenEncodeGivesTheBytes : Prop :=
  ∀ (bytes : List Byte) (i : Instr) (rest : List Byte), decode bytes = .ok (i, rest) →
    i.wellFormed = true ∧ encode i ++ rest = bytes ∧ (encode i).length = i.length

/-- 30_encoding.md R71, R82: length is a function of the opcode byte alone. -/
def Obligations.OpcodeByteFixesTheLength : Prop :=
  ∀ op : Byte, ∃ n ≤ 2, ∀ rest : List Byte,
    (rest.length < n → decode (op :: rest) = .error (.missingOperand op)) ∧
    (n ≤ rest.length → ∃ i, decode (op :: rest) = .ok (i, rest.drop n) ∧ i.length = n + 1 ∧ i.opcode = op)

/-- 30_encoding.md R80: the 214 bytes outside the dispatch table, as listed there (the list rests on D1, log 1). -/
def Obligations.UnlistedBytesAreUnknown : Prop :=
  ∀ op : Byte, isUnknownOpcode op = decide (op.toNat ∈ Sys2Proof.Safety.unknownBytes) ∧
    (op.toNat ∈ Sys2Proof.Safety.unknownBytes → ∀ b1 b2 : Byte, decodeWindow op b1 b2 = .unknown op)

/-- 20_memory.md R46. -/
def Obligations.MemoryReturnsTheLastWrite : Prop :=
  (∀ (pc : Word) (sp a x y p : Byte) (ws : List (Word × Byte)) (k : Word),
    (ws.foldl (fun s w => s.memWrite w.1 w.2) (State.created pc sp a x y p)).memRead k =
      ((ws.reverse.find? (fun w => w.1 == k)).map Prod.snd).getD 0x00) ∧
  ∀ (s : State) (ea : Word) (v : Byte), MemorySameBut ea v s (s.memWrite ea v)

/-- The canonical form of log 23 (the model's own choice) makes equal contents (20_memory.md R45) equal data. -/
def Obligations.EqualBytesMakeEqualMemories : Prop :=
  ∀ m n : Memory, m.wf → n.wf → (∀ k < 65536, m.read k = n.read k) → m = n

/-- 20_memory.md R47, 60_exceptions.md R221, R222; that the fault records the address is D18 (log 13). -/
def Obligations.PortFaultsOutsideTheAddressSpace : Prop :=
  (∀ (s : State) (addr : Nat) (v : Byte),
    if addr ≤ 65535 then
      s.portRead addr = .next (s.memRead (BitVec.ofNat 16 addr)) ∧
        ∃ t, s.portWrite addr v = .next t ∧ MemorySameBut (BitVec.ofNat 16 addr) v s t ∧ SameRegisters s t ∧
          t.cycles = s.cycles
    else
      s.portRead addr = .fault (.memoryRange addr) ∧ s.portWrite addr v = .fault (.memoryRange addr)) ∧
  ∀ (s : State) (f : Fault), step s ≠ .fault f

/-- 41_addressing.md R123, for the operand byte that the decoder read at PC. -/
def Obligations.ZeroPageIndexedWrapsInPageZero : Prop :=
  ∀ (r : Reg) (z : Byte) (s : State),
    (zeroPageIndexed r z s).1.toNat = (z.toNat + (s.reg r).toNat) % 256 ∧
      (zeroPageIndexed r z s).1.toNat < 0x100 ∧
      SameRegisters (s.setPc (s.pc + 1)) (zeroPageIndexed r z s).2 ∧
      (zeroPageIndexed r z s).2.mem = s.mem ∧ (zeroPageIndexed r z s).2.cycles = s.cycles + 2

/-- 41_addressing.md R124; the byte order is the source's words, not checked against its code (log 15). -/
def Obligations.AbsoluteOperandHighByteFirst : Prop :=
  (∀ (op h l : Byte) (mk : Word → Instr), dispatchTable op = some (.wordOperand mk) →
    decodeWindow op h l = mk (BitVec.ofNat 16 (h.toNat * 256 + l.toNat))) ∧
  ∀ (w : Word) (s : State),
    (absolute w s).1 = w ∧ SameRegisters (s.setPc (s.pc + 2)) (absolute w s).2 ∧
      (absolute w s).2.mem = s.mem ∧ (absolute w s).2.cycles = s.cycles + 2

/-- 41_addressing.md R129; for (zp),Y the wrap at 0xFF is the spec's decision D3 (log 3). -/
def Obligations.PointersAreLittleEndianInPageZero : Prop :=
  ∀ (q : Byte) (s : State),
    (pointerAt s q).toNat =
        (s.memRead (BitVec.ofNat 16 ((q.toNat + 1) % 256))).toNat * 256 + (s.memRead (BitVec.ofNat 16 q.toNat)).toNat ∧
      indYBase s q = pointerAt s q ∧ readPtrIndY q s = readPtr q s ∧ (readPtr q s).1 = pointerAt s q ∧
      SameRegisters s (readPtr q s).2 ∧ (readPtr q s).2.mem = s.mem ∧ (readPtr q s).2.cycles = s.cycles + 2

/-- 41_addressing.md R132 (D2, log 2). -/
def Obligations.IndexedSumsWrapModulo65536 : Prop :=
  ∀ (base : Word) (idx : Byte), (indexedEa base idx).toNat = (base.toNat + idx.toNat) % 65536

/-- 41_addressing.md R127, its derived equivalences. -/
def Obligations.CrossingTestIsTheCarry : Prop :=
  ∀ (base : Word) (idx : Byte),
    (crossed (indexedEa base idx) idx = true ↔ Carries base idx) ∧
      (crossed (indexedEa base idx) idx = true ↔ hi8 (indexedEa base idx) ≠ hi8 base) ∧
      (idx = 0x00 → crossed (indexedEa base idx) idx = false)

/-- 20_memory.md R54 for the addresses; 46_stack.md R210 for what SP becomes and for the pull's read at the incremented SP (C2,
log 16). -/
def Obligations.StackAccessesStayInTheStackPage : Prop :=
  ∀ s : State,
    (∀ i ∈ [Instr.pha, Instr.php], ∃ t v, exec i s = .next t ∧ dataAccesses i s = [.write (stackAddress s.sp) v] ∧
      (stackAddress s.sp).toNat = 0x100 + s.sp.toNat ∧ t.sp.toNat = (s.sp.toNat + 255) % 256) ∧
    (∀ i ∈ [Instr.pla, Instr.plp], ∃ t, exec i s = .next t ∧ dataAccesses i s = [.read (stackAddress t.sp)] ∧
      (stackAddress t.sp).toNat = 0x100 + t.sp.toNat ∧ t.sp.toNat = (s.sp.toNat + 1) % 256) ∧
    ∀ sp : Byte, 0x100 ≤ (stackAddress sp).toNat ∧ (stackAddress sp).toNat ≤ 0x1FF

/-- 40_engine.md R99 (and 10_state.md R35). -/
def Obligations.ZeroAndNegativeFollowTheResult : Prop :=
  (∀ (s : State) (v : Byte), ZNFrom s.p (s.setZN v).p v ∧ (s.setZN v).cycles = s.cycles ∧
    SameRegisters (s.setP (s.setZN v).p) (s.setZN v) ∧ (s.setZN v).mem = s.mem) ∧
  ∀ (i : Instr) (s t : State), exec i s = .next t →
    match znRegister i with
    | some r => ZNFrom s.p t.p (t.reg r)
    | none => i = .plp ∨ t.p = s.p

/-- 43_loads.md R160..R168. The address functions wrap as the spec's decisions D2 and D3 say (log 2, 3). -/
def Obligations.LdaLoadsA : Prop :=
  ∀ s : State,
    (∀ i : Byte, ∃ t, exec (.ldaImm i) s = .next t ∧
      Loaded .a i 2 2 s t) ∧
    (∀ z : Byte, ∃ t, exec (.ldaZp z) s = .next t ∧
      Loaded .a (s.memRead (zext16 z)) 2 3 s t) ∧
    (∀ z : Byte, ∃ t, exec (.ldaZpX z) s = .next t ∧
      Loaded .a (s.memRead (zeroPageIndexedEa z s.x)) 2 4 s t) ∧
    (∀ w : Word, ∃ t, exec (.ldaAbs w) s = .next t ∧
      Loaded .a (s.memRead w) 3 4 s t) ∧
    (∀ w : Word, ∃ t, exec (.ldaAbsX w) s = .next t ∧
      Loaded .a (s.memRead (indexedEa w s.x)) 3 (if Carries w s.x then 5 else 4) s t) ∧
    (∀ w : Word, ∃ t, exec (.ldaAbsY w) s = .next t ∧
      Loaded .a (s.memRead (indexedEa w s.y)) 3 (if Carries w s.y then 5 else 4) s t) ∧
    (∀ q : Byte, ∃ t, exec (.ldaIndX q) s = .next t ∧
      Loaded .a (s.memRead (pointerAt s (q + s.x))) 2 6 s t) ∧
    (∀ q : Byte, ∃ t, exec (.ldaIndY q) s = .next t ∧
      Loaded .a (s.memRead (indexedEa (indYBase s q) s.y)) 2 (if Carries (indYBase s q) s.y then 6 else 5) s t)

/-- 43_loads.md R160, R169..R173 (index register GK2, log 1; wrap D2, log 2). -/
def Obligations.LdxLoadsX : Prop :=
  ∀ s : State,
    (∀ i : Byte, ∃ t, exec (.ldxImm i) s = .next t ∧
      Loaded .x i 2 2 s t) ∧
    (∀ z : Byte, ∃ t, exec (.ldxZp z) s = .next t ∧
      Loaded .x (s.memRead (zext16 z)) 2 3 s t) ∧
    (∀ z : Byte, ∃ t, exec (.ldxZpY z) s = .next t ∧
      Loaded .x (s.memRead (zeroPageIndexedEa z s.y)) 2 4 s t) ∧
    (∀ w : Word, ∃ t, exec (.ldxAbs w) s = .next t ∧
      Loaded .x (s.memRead w) 3 4 s t) ∧
    (∀ w : Word, ∃ t, exec (.ldxAbsY w) s = .next t ∧
      Loaded .x (s.memRead (indexedEa w s.y)) 3 (if Carries w s.y then 5 else 4) s t)

/-- 43_loads.md R160, R174..R178 (index register GK2, log 1; wrap D2, log 2). -/
def Obligations.LdyLoadsY : Prop :=
  ∀ s : State,
    (∀ i : Byte, ∃ t, exec (.ldyImm i) s = .next t ∧
      Loaded .y i 2 2 s t) ∧
    (∀ z : Byte, ∃ t, exec (.ldyZp z) s = .next t ∧
      Loaded .y (s.memRead (zext16 z)) 2 3 s t) ∧
    (∀ z : Byte, ∃ t, exec (.ldyZpX z) s = .next t ∧
      Loaded .y (s.memRead (zeroPageIndexedEa z s.x)) 2 4 s t) ∧
    (∀ w : Word, ∃ t, exec (.ldyAbs w) s = .next t ∧
      Loaded .y (s.memRead w) 3 4 s t) ∧
    (∀ w : Word, ∃ t, exec (.ldyAbsX w) s = .next t ∧
      Loaded .y (s.memRead (indexedEa w s.x)) 3 (if Carries w s.x then 5 else 4) s t)

/-- 44_stores.md R180..R187. The address functions wrap as the spec's decisions D2 and D3 say (log 2, 3). -/
def Obligations.StaStoresA : Prop :=
  ∀ s : State,
    (∀ z : Byte, ∃ t, exec (.staZp z) s = .next t ∧
      Stored s.a (zext16 z) 2 3 s t) ∧
    (∀ z : Byte, ∃ t, exec (.staZpX z) s = .next t ∧
      Stored s.a (zeroPageIndexedEa z s.x) 2 4 s t) ∧
    (∀ w : Word, ∃ t, exec (.staAbs w) s = .next t ∧
      Stored s.a w 3 4 s t) ∧
    (∀ w : Word, ∃ t, exec (.staAbsX w) s = .next t ∧
      Stored s.a (indexedEa w s.x) 3 5 s t) ∧
    (∀ w : Word, ∃ t, exec (.staAbsY w) s = .next t ∧
      Stored s.a (indexedEa w s.y) 3 5 s t) ∧
    (∀ q : Byte, ∃ t, exec (.staIndX q) s = .next t ∧
      Stored s.a (pointerAt s (q + s.x)) 2 6 s t) ∧
    (∀ q : Byte, ∃ t, exec (.staIndY q) s = .next t ∧
      Stored s.a (indexedEa (indYBase s q) s.y) 2 6 s t)

/-- 44_stores.md R180, R188..R190 (index register GK2, log 1). -/
def Obligations.StxStoresX : Prop :=
  ∀ s : State,
    (∀ z : Byte, ∃ t, exec (.stxZp z) s = .next t ∧
      Stored s.x (zext16 z) 2 3 s t) ∧
    (∀ z : Byte, ∃ t, exec (.stxZpY z) s = .next t ∧
      Stored s.x (zeroPageIndexedEa z s.y) 2 4 s t) ∧
    (∀ w : Word, ∃ t, exec (.stxAbs w) s = .next t ∧
      Stored s.x w 3 4 s t)

/-- 44_stores.md R180, R191..R193 (index register GK2, log 1). -/
def Obligations.StyStoresY : Prop :=
  ∀ s : State,
    (∀ z : Byte, ∃ t, exec (.styZp z) s = .next t ∧
      Stored s.y (zext16 z) 2 3 s t) ∧
    (∀ z : Byte, ∃ t, exec (.styZpX z) s = .next t ∧
      Stored s.y (zeroPageIndexedEa z s.x) 2 4 s t) ∧
    (∀ w : Word, ∃ t, exec (.styAbs w) s = .next t ∧
      Stored s.y w 3 4 s t)

/-- 45_transfers.md R200, R201..R204. -/
def Obligations.TransfersCopyAndSetFlags : Prop :=
  ∀ s : State,
    (∃ t, exec .tax s = .next t ∧ Loaded .x s.a 1 2 s t) ∧
    (∃ t, exec .tay s = .next t ∧ Loaded .y s.a 1 2 s t) ∧
    (∃ t, exec .txa s = .next t ∧ Loaded .a s.x 1 2 s t) ∧
    (∃ t, exec .tya s = .next t ∧ Loaded .a s.y 1 2 s t)

/-- 45_transfers.md R205, R206 (cycles D4, log 4). -/
def Obligations.TsxSetsFlagsTxsDoesNot : Prop :=
  ∀ s : State,
    (∃ t, exec .tsx s = .next t ∧ Loaded .x s.sp 1 2 s t) ∧
    ∃ t, exec .txs s = .next t ∧ t.sp = s.x ∧ t.p = s.p ∧ (∀ q, t.reg q = s.reg q) ∧ MemorySame s t ∧ Advanced 1 2 s t

/-- 46_stack.md R210..R212 (PHP's bits 4 and 5: D6, log 6). -/
def Obligations.PushesStoreThenDecrement : Prop :=
  ∀ s : State,
    (∃ t, exec .pha s = .next t ∧ Pushed s.a s t) ∧ ∃ t, exec .php s = .next t ∧ Pushed s.p s t

/-- 46_stack.md R210, R213, R214 (cycles D5, log 5; bits 4 and 5 D6, log 6; order C2, log 16). -/
def Obligations.PullsIncrementThenRead : Prop :=
  ∀ s : State,
    (∃ t, exec .pla s = .next t ∧ t.sp.toNat = (s.sp.toNat + 1) % 256 ∧ t.a = s.memRead (stackAddress t.sp) ∧
      ZNFrom s.p t.p t.a ∧ t.x = s.x ∧ t.y = s.y ∧ MemorySame s t ∧ Advanced 1 4 s t) ∧
    ∃ t, exec .plp s = .next t ∧ t.sp.toNat = (s.sp.toNat + 1) % 256 ∧ t.p = s.memRead (stackAddress t.sp) ∧
      (∀ q, t.reg q = s.reg q) ∧ MemorySame s t ∧ Advanced 1 4 s t

/-- 46_stack.md R210, its last sentence (derived there; source property S7), with R211, R213 for A and R212, R214 for P. That
PHP and PLP carry all eight bits is D6 (log 6); that a pull reads after incrementing SP is C2 (log 16). -/
def Obligations.PushThenPullRestores : Prop :=
  ∀ s t u : State, u.sp = t.sp → u.memRead (stackAddress s.sp) = t.memRead (stackAddress s.sp) →
    (exec .pha s = .next t → ∃ w, exec .pla u = .next w ∧ w.a = s.a ∧ w.sp = s.sp) ∧
    (exec .php s = .next t → ∃ w, exec .plp u = .next w ∧ w.p = s.p ∧ w.sp = s.sp)

/-- 42_nop.md R150. -/
def Obligations.NopOnlyAdvances : Prop :=
  ∀ s : State, accesses .nop s = [.fetch s.pc] ∧
    ∃ t, exec .nop s = .next t ∧ (∀ q, t.reg q = s.reg q) ∧ t.sp = s.sp ∧ t.p = s.p ∧ MemorySame s t ∧ Advanced 1 2 s t

/-- 40_engine.md R97, R98 (the event's content is D7, log 7). -/
def Obligations.UnknownOpcodeReportsAndGoesOn : Prop :=
  ∀ (op : Byte) (s : State), ∃ t, exec (.unknown op) s = .next t ∧ t.diag = s.diag ++ [⟨op, s.pc⟩] ∧
    t.pc.toNat = (s.pc.toNat + 1) % 65536 ∧ t.cycles = s.cycles + 1 ∧ (∀ q, t.reg q = s.reg q) ∧ t.sp = s.sp ∧
    t.p = s.p ∧ t.defined = s.defined ∧ MemorySame s t

/-- 43_loads.md R161, from the instruction's bytes. -/
def Obligations.LdaImmediateFromItsBytes : Prop :=
  ∀ s : State, s.defined = true → s.memRead s.pc = 0xA9 →
    accesses s.fetchInstr s = [.fetch s.pc, .fetch (s.pc + 1)] ∧
      ∃ t, step s = .next t ∧ Loaded .a (s.memRead (s.pc + 1)) 2 2 s t

/-- 43_loads.md R164, from the instruction's bytes. -/
def Obligations.LdaAbsoluteFromItsBytes : Prop :=
  ∀ (s : State) (ea : Word), s.defined = true → s.memRead s.pc = 0xAD →
    ea.toNat = (s.memRead (s.pc + 1)).toNat * 256 + (s.memRead (s.pc + 2)).toNat →
    accesses s.fetchInstr s = [.fetch s.pc, .fetch (s.pc + 1), .fetch (s.pc + 2), .read ea] ∧
      ∃ t, step s = .next t ∧ Loaded .a (s.memRead ea) 3 4 s t

/-- 40_engine.md R101. exec covers the opcode fetch, so step adds nothing around it (log 14). -/
def Obligations.StepRunsTheDecodedInstruction : Prop :=
  ∀ s : State, s.defined = true →
    (∀ (i : Instr) (rest : List Byte),
      decode [s.memRead s.pc, s.memRead (s.pc + 1), s.memRead (s.pc + 2)] = .ok (i, rest) → step s = exec i s) ∧
    ∃ i rest, decode [s.memRead s.pc, s.memRead (s.pc + 1), s.memRead (s.pc + 2)] = .ok (i, rest) ∧ i.wellFormed = true

/-- 60_exceptions.md R220, R222; 40_engine.md R106; before reset R107 (D8, log 8). -/
def Obligations.EveryStepCompletes : Prop :=
  ∀ s : State, (s.defined = true → ∃ t, step s = .next t ∧ t.defined = true) ∧ (∀ f, step s ≠ .fault f) ∧
    ∀ r, step s = .refused r → r = .beforeReset ∧ s.defined = false

/-- 40_engine.md R105. -/
def Obligations.StepAdvancesPcByTheLength : Prop :=
  ∀ (i : Instr) (s t : State), exec i s = .next t → t.pc.toNat = (s.pc.toNat + i.length) % 65536

/-- 70_reset_and_hazards.md R259, its last sentence (totals rest on D4 and D5 for TSX, TXS, PLA, PLP: log 4, 5). -/
def Obligations.StepCostsOneToSixCycles : Prop :=
  ∀ (i : Instr) (s t : State), exec i s = .next t →
    s.cycles + 1 ≤ t.cycles ∧ t.cycles ≤ s.cycles + 6 ∧ (t.cycles = s.cycles + 1 ↔ ∃ op, i = .unknown op)

/-- 20_memory.md R63. -/
def Obligations.OnlyStoresAndPushesWriteMemory : Prop :=
  (∀ (i : Instr) (s t : State), writesMemory i = false → exec i s = .next t → t.mem = s.mem ∧ MemorySame s t) ∧
  ∀ s : State, s.applyReset.mem = s.mem

/-- 10_state.md R21..R24, R27..R35: who writes each register. -/
def Obligations.RegistersAreWrittenOnlyByTheirWriters : Prop :=
  ∀ (i : Instr) (s t : State), exec i s = .next t →
    (∀ q, znRegister i ≠ some q → t.reg q = s.reg q) ∧
      (i ∉ [Instr.pha, .php, .pla, .plp, .txs] → t.sp = s.sp) ∧
      (znRegister i = none → i ≠ .plp → t.p = s.p) ∧ t.defined = s.defined

/-- 20_memory.md R46, R49, R57: the memory frame of every instruction through its access list (D19, log 20). -/
def Obligations.MemoryChangesAreTheListedWrites : Prop :=
  ∀ (i : Instr) (s t : State), exec i s = .next t → ∀ k : Word,
    (∀ v, Access.write k v ∈ accesses i s → t.memRead k = v) ∧
      ((∀ v, Access.write k v ∉ accesses i s) → t.memRead k = s.memRead k)

/-- 10_state.md R38, 40_engine.md R98 (D7, log 7). -/
def Obligations.DiagGrowsOnlyByUnknownOpcodes : Prop :=
  ∀ (i : Instr) (s t : State), exec i s = .next t →
    (∀ op, i = .unknown op → t.diag = s.diag ++ [⟨op, s.pc⟩]) ∧ ((∀ op, i ≠ .unknown op) → t.diag = s.diag)

/-- 10_state.md R27..R34 (only PHP reads P), 60_exceptions.md R225. -/
def Obligations.StatusNeverSteersExecution : Prop :=
  ∀ (i : Instr) (s t : State) (q : Byte), i ≠ .php → exec i s = .next t →
    (∃ p', exec i (s.setP q) = .next (t.setP p')) ∧ (s.setP q).fetchInstr = s.fetchInstr

/-- 10_state.md R36, 60_exceptions.md R232 (no instruction reads the counter), 40_engine.md R98 (no step reads diag). -/
def Obligations.CyclesAndDiagAreNeverRead : Prop :=
  ∀ (i : Instr) (s t : State), exec i s = .next t →
    (∀ n, exec i (s.setCycles n) = .next (t.setCycles (n + (t.cycles - s.cycles))) ∧
      (s.setCycles n).fetchInstr = s.fetchInstr) ∧
    ∀ d : List UnknownInstruction,
      exec i { s with diag := d } = .next { t with diag := d ++ t.diag.drop s.diag.length } ∧
        State.fetchInstr { s with diag := d } = s.fetchInstr

/-- 20_memory.md R49, R57, 40_engine.md R95, R101: the access lists (D19, log 20) name every address a step can depend on, so
decoding from a window of three bytes (log 14) reads nothing else that matters. -/
def Obligations.StepDependsOnlyOnItsAccesses : Prop :=
  ∀ (s : State) (m : Memory), s.defined = true →
    (∀ acc ∈ accesses s.fetchInstr s, (∀ k v, acc ≠ Access.write k v) →
      State.memRead { s with mem := m } acc.addr = s.memRead acc.addr) →
    ∃ t m', step s = .next t ∧ step { s with mem := m } = .next { t with mem := m' } ∧
      (∀ acc ∈ accesses s.fetchInstr s, m'.read acc.addr.toNat = t.memRead acc.addr) ∧
      ∀ k : Word, (∀ acc ∈ accesses s.fetchInstr s, acc.addr ≠ k) → m'.read k.toNat = m.read k.toNat

/-- 20_memory.md R60 (D16): self-modifying code works at once. -/
def Obligations.StoredByteIsSeenByTheNextFetch : Prop :=
  ∀ (i : Instr) (s t : State) (k : Word) (v : Byte), exec i s = .next t → Access.write k v ∈ accesses i s →
    t.pc = k → t.defined = true →
    t.fetchInstr.opcode = v ∧ step t = exec (decodeWindow v (t.memRead (k + 1)) (t.memRead (k + 2))) t

/-- 20_memory.md R57 (D19, log 20). -/
def Obligations.AccessesFollowTheFixedOrder : Prop :=
  ∀ (i : Instr) (s : State), ∃ reads writes : List Access,
    accesses i s = (List.range i.length).map (fun n => Access.fetch (s.pc + BitVec.ofNat 16 n)) ++ reads ++ writes ∧
      (∀ acc ∈ reads, ∃ k, acc = .read k) ∧ (∀ acc ∈ writes, ∃ k v, acc = .write k v) ∧ writes.length ≤ 1 ∧
      (writes.length = 1 ↔ writesMemory i = true)

/-- The invariant Safety.Inv (10_state.md R37, R38; 20_memory.md R45; log 23) is kept by every step from any state that has it. -/
def Obligations.InvariantKeptByEveryStep : Prop :=
  ∀ s t : State, Inv s → step s = .next t → Inv t

/-- 70_reset_and_hazards.md R250, R253. cycles 0 is the model's choice (log 10). -/
def Obligations.InvariantHoldsAtReset : Prop :=
  Inv State.reset ∧ ∀ (pc : Word) (sp a x y p : Byte), (State.created pc sp a x y p).applyReset = State.reset

/-- 70_reset_and_hazards.md R250 (cycles and diag unchanged: D11, log 11). -/
def Obligations.ResetGivesEveryRegisterItsValue : Prop :=
  ∀ s : State, s.applyReset.pc = 0xFFFC ∧ s.applyReset.sp = 0x00 ∧ (∀ q, s.applyReset.reg q = 0x00) ∧
    s.applyReset.p = 0x00 ∧ s.applyReset.defined = true ∧ s.applyReset.cycles = s.cycles ∧
    MemorySame s s.applyReset ∧ s.applyReset.diag = s.diag ∧
    ∀ flag ∈ [Flags.c, Flags.z, Flags.i, Flags.d, Flags.b, Flags.u, Flags.v, Flags.n], flag s.applyReset.p = false

/-- 70_reset_and_hazards.md R252. -/
def Obligations.ResetIsIdempotent : Prop :=
  ∀ s u : State, s.applyReset.applyReset = s.applyReset ∧ s.applyReset.cycles = s.cycles ∧
    s.applyReset.mem = s.mem ∧ (s.diag = u.diag → SameRegisters s.applyReset u.applyReset)

/-- 70_reset_and_hazards.md R251. -/
def Obligations.FirstInstructionIsAtTheResetAddress : Prop :=
  ∀ s : State, s.applyReset.pc = 0xFFFC ∧
    step s.applyReset =
      exec (decodeWindow (s.memRead 0xFFFC) (s.memRead 0xFFFD) (s.memRead 0xFFFE)) s.applyReset

/-- 40_engine.md R91..R93, R106. The budget and the counter have no width (D9, log 9). The model's fuel (log 18) never ends
the loop early. -/
def Obligations.ExecuteIsTheLoopOfSteps : Prop :=
  ∀ (budget : Int) (s : State), s.defined = true →
    ∃ (k : Nat) (t : State), k ≤ budget.toNat ∧ Sys2Proof.core.run k (s.setCycles 0) = .next t ∧
      budget ≤ (t.cycles : Int) ∧
      (∀ j < k, ∃ u : State, Sys2Proof.core.run j (s.setCycles 0) = .next u ∧ (u.cycles : Int) < budget) ∧
      execute budget s = .next ((t.cycles : Int) - budget, t)

/-- 40_engine.md R93; the bound rests on 70_reset_and_hazards.md R259's longest instruction (budget and counter without a
width: D9, log 9). -/
def Obligations.OverrunIsAtMostFive : Prop :=
  ∀ (budget : Int) (s t : State) (n : Int), execute budget s = .next (n, t) →
    n = (t.cycles : Int) - budget ∧ 0 ≤ n ∧ (0 < budget → n ≤ 5)

/-- 40_engine.md R94 (budget and counter without a width: D9, log 9). -/
def Obligations.NonPositiveBudgetRunsNothing : Prop :=
  ∀ (budget : Int) (s : State), s.defined = true → budget ≤ 0 → execute budget s = .next (-budget, s.setCycles 0)

/-- 60_exceptions.md R235: execute(1) is a single step (budget and counter without a width: D9, log 9). -/
def Obligations.ExecuteOneIsASingleStep : Prop :=
  ∀ s : State, s.defined = true →
    ∃ t, step (s.setCycles 0) = .next t ∧ execute 1 s = .next ((t.cycles : Int) - 1, t)

/-- 40_engine.md R107 (D8, log 8); memory stays accessible (93_implementation_defined.md I14). -/
def Obligations.BeforeResetOnlyResetAndMemory : Prop :=
  ∀ s : State, s.defined = false →
    step s = .refused .beforeReset ∧ (∀ b, hostCall (.execute b) s = .refused .beforeReset) ∧
      (∀ r, hostCall (.readRegister r) s = .refused .beforeReset) ∧
      hostCall .reset s = .next (s.applyReset, .done) ∧ s.applyReset.defined = true ∧
      (∀ addr < 65536, hostCall (.readMemory addr) s = .next (s, .byte (s.memRead (BitVec.ofNat 16 addr)))) ∧
      (∀ addr < 65536, ∀ v,
        hostCall (.writeMemory addr v) s = .next (s.memWrite (BitVec.ofNat 16 addr) v, .done)) ∧
      hostCall .readDiag s = .next (s, .events s.diag)

/-- 40_engine.md R90, R102, R103; 10_state.md R20: the host writes no register directly. -/
def Obligations.HostRequestsDoOnlyTheirPart : Prop :=
  ∀ (q : HostRequest) (s t : State) (reply : HostReply), hostCall q s = .next (t, reply) →
    match q with
    | .reset => t = s.applyReset ∧ reply = .done
    | .execute budget => ∃ n, execute budget s = .next (n, t) ∧ reply = .overrun n
    | .readRegister r => s.defined = true ∧ t = s ∧ reply = s.accessor r
    | .readMemory addr => addr < 65536 ∧ t = s ∧ reply = .byte (s.memRead (BitVec.ofNat 16 addr))
    | .writeMemory addr v =>
      addr < 65536 ∧ reply = .done ∧ MemorySameBut (BitVec.ofNat 16 addr) v s t ∧ SameRegisters s t ∧ t.cycles = s.cycles
    | .readDiag => t = s ∧ reply = .events s.diag

/-- The canonical form of log 23 over whole host sessions (40_engine.md R103). -/
def Obligations.HostSessionsKeepMemoryCanonical : Prop :=
  ∀ (qs : List HostRequest) (s t : State) (replies : List HostReply), s.mem.wf → hostRun qs s = .next (t, replies) →
    t.mem.wf

/-- 20_memory.md R62 (D10, log 12). -/
def Obligations.HostWriteIsSeenByTheNextFetch : Prop :=
  ∀ (s : State) (addr : Word) (v : Byte), ∃ t, hostCall (.writeMemory addr.toNat v) s = .next (t, .done) ∧
    t.memRead addr = v ∧ (s.pc = addr → t.fetchInstr.opcode = v)
end

