-- ==== Sys2Proof/Laws/Decode.lean ====
section
/-! SUPPORT. What the dispatch table and the decoder can give. -/

namespace Sys2Proof

theorem wordOf_toNat (h l : Byte) : (wordOf h l).toNat = h.toNat * 256 + l.toNat := by
  have := l.isLt
  rw [wordOf, BitVec.toNat_append, ← Nat.shiftLeft_add_eq_or_of_lt this, Nat.shiftLeft_eq]

theorem lo8_toNat (w : Word) : (lo8 w).toNat = w.toNat % 256 := by
  simp [lo8, BitVec.extractLsb'_toNat]

theorem hi8_toNat (w : Word) : (hi8 w).toNat = w.toNat / 256 := by
  have := w.isLt
  simp [hi8, BitVec.extractLsb'_toNat, Nat.shiftRight_eq_div_pow]
  omega

theorem wordOf_hi8_lo8 (w : Word) : wordOf (hi8 w) (lo8 w) = w := by
  apply BitVec.eq_of_toNat_eq
  rw [wordOf_toNat, hi8_toNat, lo8_toNat]
  omega

theorem hi8_wordOf (h l : Byte) : hi8 (wordOf h l) = h := by
  apply BitVec.eq_of_toNat_eq
  have := l.isLt
  rw [hi8_toNat, wordOf_toNat]
  omega

theorem lo8_wordOf (h l : Byte) : lo8 (wordOf h l) = l := by
  apply BitVec.eq_of_toNat_eq
  have := l.isLt
  rw [lo8_toNat, wordOf_toNat]
  omega

/-- Every entry's handler builds well-formed instructions whose opcode is the entry's byte, with the operand bytes in the
order of its format (30_encoding.md R73..R78). -/
theorem opcodeTable_rows : ∀ r ∈ opcodeTable,
    match r.handler with
    | .implied i => i.wellFormed = true ∧ encode i = [r.opcode] ∧ i.length = 1
    | .byteOperand mk => ∀ b, (mk b).wellFormed = true ∧ encode (mk b) = [r.opcode, b] ∧ (mk b).length = 2
    | .wordOperand mk => ∀ w, (mk w).wellFormed = true ∧ encode (mk w) = r.opcode :: absBytes w ∧ (mk w).length = 3 := by
  intro r hr
  simp only [opcodeTable, loadRows, storeRows, impliedRows, List.cons_append, List.nil_append, List.mem_cons,
    List.not_mem_nil, or_false] at hr
  rcases hr with rfl | rfl | rfl | rfl | rfl | rfl | rfl | rfl | rfl | rfl | rfl | rfl | rfl | rfl | rfl | rfl | rfl |
    rfl | rfl | rfl | rfl | rfl | rfl | rfl | rfl | rfl | rfl | rfl | rfl | rfl | rfl | rfl | rfl | rfl | rfl | rfl |
    rfl | rfl | rfl | rfl | rfl | rfl
  all_goals first
    | exact ⟨rfl, rfl, rfl⟩
    | exact fun b => ⟨rfl, rfl, rfl⟩

/-- A byte that selects a handler is the opcode byte of some entry with that handler. -/
theorem dispatchTable_some {op : Byte} {h : Handler} (hs : dispatchTable op = some h) :
    ∃ r ∈ opcodeTable, r.opcode = op ∧ r.handler = h := by
  obtain ⟨r, hr, rfl⟩ := Option.map_eq_some_iff.1 hs
  exact ⟨r, List.mem_of_find?_eq_some hr, by simpa using List.find?_some hr, rfl⟩

/-- The decoder gives only well-formed instructions. -/
theorem wellFormed_decodeWindow (op b1 b2 : Byte) : (decodeWindow op b1 b2).wellFormed = true := by
  unfold decodeWindow
  split
  · next h => simp [Instr.wellFormed, isUnknownOpcode, h]
  all_goals
    next h =>
    obtain ⟨r, hr, -, hh⟩ := dispatchTable_some h
    have row := opcodeTable_rows r hr
    simp only [hh] at row
    first | exact row.1 | exact (row _).1

theorem operandCount_le_two (op : Byte) : operandCount op ≤ 2 := by
  unfold operandCount
  split <;> omega

/-- Three bytes always hold a whole instruction (30_encoding.md R70). -/
theorem decode_three (op b1 b2 : Byte) :
    decode [op, b1, b2] = .ok (decodeWindow op b1 b2, [b1, b2].drop (operandCount op)) :=
  if_neg (by have := operandCount_le_two op; simp; omega)

end Sys2Proof
end

