-- ==== Sys2Proof/Laws/State.lean ====
section
/-! SUPPORT. One lemma per field per update of the state, so that no later proof unfolds a record update. -/

namespace Sys2Proof.Machine

variable (s : State)

@[simp] theorem State.memWrite_defined (addr : Word) (v : Byte) : (s.memWrite addr v).defined = s.defined := rfl
@[simp] theorem State.memWrite_pc (addr : Word) (v : Byte) : (s.memWrite addr v).pc = s.pc := rfl
@[simp] theorem State.memWrite_sp (addr : Word) (v : Byte) : (s.memWrite addr v).sp = s.sp := rfl
@[simp] theorem State.memWrite_a (addr : Word) (v : Byte) : (s.memWrite addr v).a = s.a := rfl
@[simp] theorem State.memWrite_x (addr : Word) (v : Byte) : (s.memWrite addr v).x = s.x := rfl
@[simp] theorem State.memWrite_y (addr : Word) (v : Byte) : (s.memWrite addr v).y = s.y := rfl
@[simp] theorem State.memWrite_p (addr : Word) (v : Byte) : (s.memWrite addr v).p = s.p := rfl
@[simp] theorem State.memWrite_cycles (addr : Word) (v : Byte) : (s.memWrite addr v).cycles = s.cycles := rfl
@[simp] theorem State.memWrite_mem (addr : Word) (v : Byte) : (s.memWrite addr v).mem = s.mem.write addr.toNat v := rfl
@[simp] theorem State.memWrite_diag (addr : Word) (v : Byte) : (s.memWrite addr v).diag = s.diag := rfl

@[simp] theorem State.setSp_defined (v : Byte) : (s.setSp v).defined = s.defined := rfl
@[simp] theorem State.setSp_pc (v : Byte) : (s.setSp v).pc = s.pc := rfl
@[simp] theorem State.setSp_sp (v : Byte) : (s.setSp v).sp = v := rfl
@[simp] theorem State.setSp_a (v : Byte) : (s.setSp v).a = s.a := rfl
@[simp] theorem State.setSp_x (v : Byte) : (s.setSp v).x = s.x := rfl
@[simp] theorem State.setSp_y (v : Byte) : (s.setSp v).y = s.y := rfl
@[simp] theorem State.setSp_p (v : Byte) : (s.setSp v).p = s.p := rfl
@[simp] theorem State.setSp_cycles (v : Byte) : (s.setSp v).cycles = s.cycles := rfl
@[simp] theorem State.setSp_mem (v : Byte) : (s.setSp v).mem = s.mem := rfl
@[simp] theorem State.setSp_diag (v : Byte) : (s.setSp v).diag = s.diag := rfl

@[simp] theorem State.setP_defined (v : Byte) : (s.setP v).defined = s.defined := rfl
@[simp] theorem State.setP_pc (v : Byte) : (s.setP v).pc = s.pc := rfl
@[simp] theorem State.setP_sp (v : Byte) : (s.setP v).sp = s.sp := rfl
@[simp] theorem State.setP_a (v : Byte) : (s.setP v).a = s.a := rfl
@[simp] theorem State.setP_x (v : Byte) : (s.setP v).x = s.x := rfl
@[simp] theorem State.setP_y (v : Byte) : (s.setP v).y = s.y := rfl
@[simp] theorem State.setP_p (v : Byte) : (s.setP v).p = v := rfl
@[simp] theorem State.setP_cycles (v : Byte) : (s.setP v).cycles = s.cycles := rfl
@[simp] theorem State.setP_mem (v : Byte) : (s.setP v).mem = s.mem := rfl
@[simp] theorem State.setP_diag (v : Byte) : (s.setP v).diag = s.diag := rfl

@[simp] theorem State.setPc_defined (w : Word) : (s.setPc w).defined = s.defined := rfl
@[simp] theorem State.setPc_pc (w : Word) : (s.setPc w).pc = w := rfl
@[simp] theorem State.setPc_sp (w : Word) : (s.setPc w).sp = s.sp := rfl
@[simp] theorem State.setPc_a (w : Word) : (s.setPc w).a = s.a := rfl
@[simp] theorem State.setPc_x (w : Word) : (s.setPc w).x = s.x := rfl
@[simp] theorem State.setPc_y (w : Word) : (s.setPc w).y = s.y := rfl
@[simp] theorem State.setPc_p (w : Word) : (s.setPc w).p = s.p := rfl
@[simp] theorem State.setPc_cycles (w : Word) : (s.setPc w).cycles = s.cycles := rfl
@[simp] theorem State.setPc_mem (w : Word) : (s.setPc w).mem = s.mem := rfl
@[simp] theorem State.setPc_diag (w : Word) : (s.setPc w).diag = s.diag := rfl

@[simp] theorem State.setCycles_defined (n : Nat) : (s.setCycles n).defined = s.defined := rfl
@[simp] theorem State.setCycles_pc (n : Nat) : (s.setCycles n).pc = s.pc := rfl
@[simp] theorem State.setCycles_sp (n : Nat) : (s.setCycles n).sp = s.sp := rfl
@[simp] theorem State.setCycles_a (n : Nat) : (s.setCycles n).a = s.a := rfl
@[simp] theorem State.setCycles_x (n : Nat) : (s.setCycles n).x = s.x := rfl
@[simp] theorem State.setCycles_y (n : Nat) : (s.setCycles n).y = s.y := rfl
@[simp] theorem State.setCycles_p (n : Nat) : (s.setCycles n).p = s.p := rfl
@[simp] theorem State.setCycles_cycles (n : Nat) : (s.setCycles n).cycles = n := rfl
@[simp] theorem State.setCycles_mem (n : Nat) : (s.setCycles n).mem = s.mem := rfl
@[simp] theorem State.setCycles_diag (n : Nat) : (s.setCycles n).diag = s.diag := rfl

@[simp] theorem State.tick_defined (n : Nat) : (s.tick n).defined = s.defined := rfl
@[simp] theorem State.tick_pc (n : Nat) : (s.tick n).pc = s.pc := rfl
@[simp] theorem State.tick_sp (n : Nat) : (s.tick n).sp = s.sp := rfl
@[simp] theorem State.tick_a (n : Nat) : (s.tick n).a = s.a := rfl
@[simp] theorem State.tick_x (n : Nat) : (s.tick n).x = s.x := rfl
@[simp] theorem State.tick_y (n : Nat) : (s.tick n).y = s.y := rfl
@[simp] theorem State.tick_p (n : Nat) : (s.tick n).p = s.p := rfl
@[simp] theorem State.tick_cycles (n : Nat) : (s.tick n).cycles = s.cycles + n := rfl
@[simp] theorem State.tick_mem (n : Nat) : (s.tick n).mem = s.mem := rfl
@[simp] theorem State.tick_diag (n : Nat) : (s.tick n).diag = s.diag := rfl

@[simp] theorem State.emitUnknown_defined (op : Byte) (a0 : Word) : (s.emitUnknown op a0).defined = s.defined := rfl
@[simp] theorem State.emitUnknown_pc (op : Byte) (a0 : Word) : (s.emitUnknown op a0).pc = s.pc := rfl
@[simp] theorem State.emitUnknown_sp (op : Byte) (a0 : Word) : (s.emitUnknown op a0).sp = s.sp := rfl
@[simp] theorem State.emitUnknown_a (op : Byte) (a0 : Word) : (s.emitUnknown op a0).a = s.a := rfl
@[simp] theorem State.emitUnknown_x (op : Byte) (a0 : Word) : (s.emitUnknown op a0).x = s.x := rfl
@[simp] theorem State.emitUnknown_y (op : Byte) (a0 : Word) : (s.emitUnknown op a0).y = s.y := rfl
@[simp] theorem State.emitUnknown_p (op : Byte) (a0 : Word) : (s.emitUnknown op a0).p = s.p := rfl
@[simp] theorem State.emitUnknown_cycles (op : Byte) (a0 : Word) : (s.emitUnknown op a0).cycles = s.cycles := rfl
@[simp] theorem State.emitUnknown_mem (op : Byte) (a0 : Word) : (s.emitUnknown op a0).mem = s.mem := rfl
@[simp] theorem State.emitUnknown_diag (op : Byte) (a0 : Word) : (s.emitUnknown op a0).diag = s.diag ++ [⟨op, a0⟩] := rfl

@[simp] theorem State.passByte_defined : (s.passByte).defined = s.defined := rfl
@[simp] theorem State.passByte_pc : (s.passByte).pc = s.pc + 1 := rfl
@[simp] theorem State.passByte_sp : (s.passByte).sp = s.sp := rfl
@[simp] theorem State.passByte_a : (s.passByte).a = s.a := rfl
@[simp] theorem State.passByte_x : (s.passByte).x = s.x := rfl
@[simp] theorem State.passByte_y : (s.passByte).y = s.y := rfl
@[simp] theorem State.passByte_p : (s.passByte).p = s.p := rfl
@[simp] theorem State.passByte_cycles : (s.passByte).cycles = s.cycles + 1 := rfl
@[simp] theorem State.passByte_mem : (s.passByte).mem = s.mem := rfl
@[simp] theorem State.passByte_diag : (s.passByte).diag = s.diag := rfl

@[simp] theorem State.writeByte_defined (addr : Word) (v : Byte) : (s.writeByte addr v).defined = s.defined := rfl
@[simp] theorem State.writeByte_pc (addr : Word) (v : Byte) : (s.writeByte addr v).pc = s.pc := rfl
@[simp] theorem State.writeByte_sp (addr : Word) (v : Byte) : (s.writeByte addr v).sp = s.sp := rfl
@[simp] theorem State.writeByte_a (addr : Word) (v : Byte) : (s.writeByte addr v).a = s.a := rfl
@[simp] theorem State.writeByte_x (addr : Word) (v : Byte) : (s.writeByte addr v).x = s.x := rfl
@[simp] theorem State.writeByte_y (addr : Word) (v : Byte) : (s.writeByte addr v).y = s.y := rfl
@[simp] theorem State.writeByte_p (addr : Word) (v : Byte) : (s.writeByte addr v).p = s.p := rfl
@[simp] theorem State.writeByte_cycles (addr : Word) (v : Byte) : (s.writeByte addr v).cycles = s.cycles + 1 := rfl
@[simp] theorem State.writeByte_mem (addr : Word) (v : Byte) : (s.writeByte addr v).mem = s.mem.write addr.toNat v := rfl
@[simp] theorem State.writeByte_diag (addr : Word) (v : Byte) : (s.writeByte addr v).diag = s.diag := rfl

@[simp] theorem State.setZN_defined (v : Byte) : (s.setZN v).defined = s.defined := rfl
@[simp] theorem State.setZN_pc (v : Byte) : (s.setZN v).pc = s.pc := rfl
@[simp] theorem State.setZN_sp (v : Byte) : (s.setZN v).sp = s.sp := rfl
@[simp] theorem State.setZN_a (v : Byte) : (s.setZN v).a = s.a := rfl
@[simp] theorem State.setZN_x (v : Byte) : (s.setZN v).x = s.x := rfl
@[simp] theorem State.setZN_y (v : Byte) : (s.setZN v).y = s.y := rfl
@[simp] theorem State.setZN_p (v : Byte) : (s.setZN v).p = Flags.setZN s.p v := rfl
@[simp] theorem State.setZN_cycles (v : Byte) : (s.setZN v).cycles = s.cycles := rfl
@[simp] theorem State.setZN_mem (v : Byte) : (s.setZN v).mem = s.mem := rfl
@[simp] theorem State.setZN_diag (v : Byte) : (s.setZN v).diag = s.diag := rfl

@[simp] theorem State.applyReset_defined : (s.applyReset).defined = true := rfl
@[simp] theorem State.applyReset_pc : (s.applyReset).pc = 0xFFFC := rfl
@[simp] theorem State.applyReset_sp : (s.applyReset).sp = 0x00 := rfl
@[simp] theorem State.applyReset_a : (s.applyReset).a = 0x00 := rfl
@[simp] theorem State.applyReset_x : (s.applyReset).x = 0x00 := rfl
@[simp] theorem State.applyReset_y : (s.applyReset).y = 0x00 := rfl
@[simp] theorem State.applyReset_p : (s.applyReset).p = 0x00 := rfl
@[simp] theorem State.applyReset_cycles : (s.applyReset).cycles = s.cycles := rfl
@[simp] theorem State.applyReset_mem : (s.applyReset).mem = s.mem := rfl
@[simp] theorem State.applyReset_diag : (s.applyReset).diag = s.diag := rfl

@[simp] theorem State.setReg_a_a (v : Byte) : (s.setReg .a v).a = v := rfl
@[simp] theorem State.setReg_a_x (v : Byte) : (s.setReg .a v).x = s.x := rfl
@[simp] theorem State.setReg_a_y (v : Byte) : (s.setReg .a v).y = s.y := rfl
@[simp] theorem State.setReg_x_a (v : Byte) : (s.setReg .x v).a = s.a := rfl
@[simp] theorem State.setReg_x_x (v : Byte) : (s.setReg .x v).x = v := rfl
@[simp] theorem State.setReg_x_y (v : Byte) : (s.setReg .x v).y = s.y := rfl
@[simp] theorem State.setReg_y_a (v : Byte) : (s.setReg .y v).a = s.a := rfl
@[simp] theorem State.setReg_y_x (v : Byte) : (s.setReg .y v).x = s.x := rfl
@[simp] theorem State.setReg_y_y (v : Byte) : (s.setReg .y v).y = v := rfl

@[simp] theorem State.setReg_defined (r : Reg) (v : Byte) : (s.setReg r v).defined = s.defined := by cases r <;> rfl
@[simp] theorem State.setReg_pc (r : Reg) (v : Byte) : (s.setReg r v).pc = s.pc := by cases r <;> rfl
@[simp] theorem State.setReg_sp (r : Reg) (v : Byte) : (s.setReg r v).sp = s.sp := by cases r <;> rfl
@[simp] theorem State.setReg_p (r : Reg) (v : Byte) : (s.setReg r v).p = s.p := by cases r <;> rfl
@[simp] theorem State.setReg_cycles (r : Reg) (v : Byte) : (s.setReg r v).cycles = s.cycles := by cases r <;> rfl
@[simp] theorem State.setReg_mem (r : Reg) (v : Byte) : (s.setReg r v).mem = s.mem := by cases r <;> rfl
@[simp] theorem State.setReg_diag (r : Reg) (v : Byte) : (s.setReg r v).diag = s.diag := by cases r <;> rfl

@[simp] theorem State.reg_a : s.reg .a = s.a := rfl
@[simp] theorem State.reg_x : s.reg .x = s.x := rfl
@[simp] theorem State.reg_y : s.reg .y = s.y := rfl

theorem State.reg_setReg (r q : Reg) (v : Byte) : (s.setReg r v).reg q = if q = r then v else s.reg q := by
  cases r <;> cases q <;> rfl

@[simp] theorem State.reg_setReg_same (r : Reg) (v : Byte) : (s.setReg r v).reg r = v := by cases r <;> rfl

theorem State.reg_setReg_other (r q : Reg) (v : Byte) (h : q ≠ r) : (s.setReg r v).reg q = s.reg q := by
  rw [State.reg_setReg, if_neg h]

@[simp] theorem State.memWrite_reg (addr : Word) (v : Byte) (q : Reg) : (s.memWrite addr v).reg q = s.reg q := by cases q <;> rfl
@[simp] theorem State.setSp_reg (v : Byte) (q : Reg) : (s.setSp v).reg q = s.reg q := by cases q <;> rfl
@[simp] theorem State.setP_reg (v : Byte) (q : Reg) : (s.setP v).reg q = s.reg q := by cases q <;> rfl
@[simp] theorem State.setPc_reg (w : Word) (q : Reg) : (s.setPc w).reg q = s.reg q := by cases q <;> rfl
@[simp] theorem State.setCycles_reg (n : Nat) (q : Reg) : (s.setCycles n).reg q = s.reg q := by cases q <;> rfl
@[simp] theorem State.tick_reg (n : Nat) (q : Reg) : (s.tick n).reg q = s.reg q := by cases q <;> rfl
@[simp] theorem State.emitUnknown_reg (op : Byte) (a0 : Word) (q : Reg) : (s.emitUnknown op a0).reg q = s.reg q := by cases q <;> rfl
@[simp] theorem State.passByte_reg (q : Reg) : (s.passByte).reg q = s.reg q := by cases q <;> rfl
@[simp] theorem State.writeByte_reg (addr : Word) (v : Byte) (q : Reg) : (s.writeByte addr v).reg q = s.reg q := by cases q <;> rfl
@[simp] theorem State.setZN_reg (v : Byte) (q : Reg) : (s.setZN v).reg q = s.reg q := by cases q <;> rfl

/-- Reading a byte looks at memory alone. -/
theorem State.memRead_congr {s t : State} (h : s.mem = t.mem) (addr : Word) : s.memRead addr = t.memRead addr := by
  unfold State.memRead; rw [h]

@[simp] theorem State.setSp_memRead (v : Byte) (k : Word) : (s.setSp v).memRead k = s.memRead k := rfl
@[simp] theorem State.setP_memRead (v : Byte) (k : Word) : (s.setP v).memRead k = s.memRead k := rfl
@[simp] theorem State.setPc_memRead (w : Word) (k : Word) : (s.setPc w).memRead k = s.memRead k := rfl
@[simp] theorem State.setCycles_memRead (n : Nat) (k : Word) : (s.setCycles n).memRead k = s.memRead k := rfl
@[simp] theorem State.tick_memRead (n : Nat) (k : Word) : (s.tick n).memRead k = s.memRead k := rfl
@[simp] theorem State.emitUnknown_memRead (op : Byte) (a0 : Word) (k : Word) : (s.emitUnknown op a0).memRead k = s.memRead k := rfl
@[simp] theorem State.passByte_memRead (k : Word) : (s.passByte).memRead k = s.memRead k := rfl
@[simp] theorem State.setZN_memRead (v : Byte) (k : Word) : (s.setZN v).memRead k = s.memRead k := rfl
@[simp] theorem State.applyReset_memRead (k : Word) : (s.applyReset).memRead k = s.memRead k := rfl
@[simp] theorem State.setReg_memRead (r : Reg) (v : Byte) (k : Word) : (s.setReg r v).memRead k = s.memRead k := by cases r <;> rfl

@[simp] theorem State.fetchByte_fst : s.fetchByte.1 = s.memRead s.pc := rfl
@[simp] theorem State.fetchByte_snd : s.fetchByte.2 = s.passByte := rfl
@[simp] theorem State.readByte_fst (k : Word) : (s.readByte k).1 = s.memRead k := rfl
@[simp] theorem State.readByte_snd (k : Word) : (s.readByte k).2 = s.tick 1 := rfl

end Sys2Proof.Machine
end

