-- ==== Sys2Proof/Laws/Memory.lean ====
section
/-! SUPPORT. What the memory operations do: a read after a write, and the canonical form. -/

namespace Sys2Proof.Machine

theorem Memory.read_of_not_mem {m : Memory} {k : Nat} (h : ∀ c ∈ m, c.1 ≠ k) : m.read k = 0x00 := by
  induction m with
  | nil => rfl
  | cons c m ih =>
    rw [Memory.read, if_neg (h c List.mem_cons_self)]
    exact ih fun d hd => h d (List.mem_cons_of_mem _ hd)

theorem Memory.read_without (m : Memory) (k j : Nat) :
    (m.without k).read j = if j = k then 0x00 else m.read j := by
  induction m with
  | nil => simp [Memory.without, Memory.read]
  | cons c m ih =>
    unfold Memory.without at ih ⊢
    by_cases hc : c.1 = k
    · rw [List.filter_cons_of_neg (by simp [hc]), ih]
      by_cases hj : j = k
      · simp [hj]
      · rw [if_neg hj, if_neg hj, Memory.read, if_neg (by omega)]
    · rw [List.filter_cons_of_pos (by simp [hc]), Memory.read, ih, Memory.read]
      by_cases hj : j = k
      · simp [hj, hc]
      · simp [hj]

theorem Memory.read_place (m : Memory) (k : Nat) (v : Byte) (h : ∀ c ∈ m, c.1 ≠ k) (j : Nat) :
    (m.place k v).read j = if j = k then v else m.read j := by
  induction m with
  | nil => simp [Memory.place, Memory.read, eq_comm]
  | cons c m ih =>
    have ih := ih fun d hd => h d (List.mem_cons_of_mem _ hd)
    have hc := h c List.mem_cons_self
    rw [Memory.place]
    split
    · rw [Memory.read, ih, Memory.read]
      by_cases hj : j = k
      · simp [hj, hc]
      · simp [hj]
    · rw [Memory.read]
      by_cases hj : j = k
      · simp [hj]
      · rw [if_neg (by omega), if_neg hj]

theorem Memory.mem_without {m : Memory} {k : Nat} {c : Host.Cell} :
    c ∈ m.without k ↔ c ∈ m ∧ c.1 ≠ k := by
  simp [Memory.without]

/-- A read after a write: the written byte at its address, every other byte as before (20_memory.md R46). It holds of
every list of cells, canonical or not. -/
theorem Memory.read_write (m : Memory) (k : Nat) (v : Byte) (j : Nat) :
    (m.write k v).read j = if j = k then v else m.read j := by
  unfold Memory.write
  split
  · next hv => rw [Memory.read_without, hv]
  · rw [Memory.read_place _ _ _ (fun c hc => (Memory.mem_without.1 hc).2), Memory.read_without]
    split <;> rfl

theorem Memory.mem_place {m : Memory} {k : Nat} {v : Byte} {c : Host.Cell} (h : c ∈ m.place k v) :
    c = (k, v) ∨ c ∈ m := by
  induction m with
  | nil => simpa [Memory.place] using h
  | cons d m ih =>
    rw [Memory.place] at h
    split at h
    · rcases List.mem_cons.1 h with rfl | h
      · exact .inr List.mem_cons_self
      · exact (ih h).imp_right (List.mem_cons_of_mem _)
    · simpa using h

theorem Memory.wf_without {m : Memory} (h : m.wf) (k : Nat) : (m.without k).wf :=
  ⟨h.1.filter _, fun c hc => h.2 c (Memory.mem_without.1 hc).1⟩

theorem Memory.rising_place {m : Memory} (h : m.Pairwise (fun c d => c.1 < d.1)) (k : Nat) (v : Byte)
    (hk : ∀ c ∈ m, c.1 ≠ k) : (m.place k v).Pairwise (fun c d => c.1 < d.1) := by
  induction m with
  | nil => simp [Memory.place]
  | cons c m ih =>
    obtain ⟨hc, hm⟩ := List.pairwise_cons.1 h
    have hck := hk c List.mem_cons_self
    rw [Memory.place]
    split
    · next hlt =>
      refine List.pairwise_cons.2 ⟨fun d hd => ?_, ih hm fun d hd => hk d (List.mem_cons_of_mem _ hd)⟩
      rcases Memory.mem_place hd with rfl | hd
      · exact hlt
      · exact hc d hd
    · refine List.pairwise_cons.2 ⟨fun d hd => ?_, h⟩
      rcases List.mem_cons.1 hd with rfl | hd
      · show k < d.1; omega
      · show k < d.1
        have := hc d hd
        omega

/-- A write keeps the canonical form. -/
theorem Memory.wf_write {m : Memory} (h : m.wf) {k : Nat} (hk : k < Config.memSize) (v : Byte) : (m.write k v).wf := by
  unfold Memory.write
  split
  · exact Memory.wf_without h k
  · next hv =>
    have hw := Memory.wf_without h k
    refine ⟨Memory.rising_place hw.1 k v fun c hc => (Memory.mem_without.1 hc).2, fun c hc => ?_⟩
    rcases Memory.mem_place hc with rfl | hc
    · exact ⟨hk, hv⟩
    · exact hw.2 c hc

/-- The memory after creation and after reset has the canonical form. -/
theorem Memory.wf_reset : State.reset.mem.wf := by decide

@[simp] theorem State.memRead_memWrite (s : State) (addr : Word) (v : Byte) (k : Word) :
    (s.memWrite addr v).memRead k = if k = addr then v else s.memRead k := by
  show (s.mem.write addr.toNat v).read k.toNat = _
  rw [Memory.read_write]
  simp only [BitVec.toNat_inj]
  rfl

@[simp] theorem State.memRead_writeByte (s : State) (addr : Word) (v : Byte) (k : Word) :
    (s.writeByte addr v).memRead k = if k = addr then v else s.memRead k :=
  State.memRead_memWrite s addr v k

theorem State.wf_memWrite {s : State} (h : s.mem.wf) (addr : Word) (v : Byte) : (s.memWrite addr v).mem.wf :=
  Memory.wf_write h addr.isLt v


end Sys2Proof.Machine
end

