-- ==== Sys2Proof/Laws/Ops.lean ====
section
/-! SUPPORT. For each shared operation, one lemma that says everything it does. -/

namespace Sys2Proof.Machine

variable (s : State)

/-! ### The port -/

theorem State.portRead_inside {addr : Nat} (h : addr < 65536) :
    s.portRead addr = .next (s.memRead (BitVec.ofNat 16 addr)) := if_pos h

theorem State.portRead_outside {addr : Nat} (h : ¬ addr < 65536) : s.portRead addr = .fault (.memoryRange addr) :=
  if_neg h

theorem State.portWrite_inside {addr : Nat} (h : addr < 65536) (v : Byte) :
    s.portWrite addr v = .next (s.memWrite (BitVec.ofNat 16 addr) v) := if_pos h

theorem State.portWrite_outside {addr : Nat} (h : ¬ addr < 65536) (v : Byte) :
    s.portWrite addr v = .fault (.memoryRange addr) := if_neg h

/-! ### The stack -/

theorem stackAddress_toNat (sp : Byte) : (stackAddress sp).toNat = 0x100 + sp.toNat := by
  have := sp.isLt
  simp only [stackAddress, Config.stackBase, BitVec.toNat_add, BitVec.toNat_setWidth]
  simp
  omega

theorem State.push_eq (v : Byte) :
    s.push v = { s with mem := s.mem.write (stackAddress s.sp).toNat v, sp := s.sp - 1, cycles := s.cycles + 2 } := rfl

theorem State.pull_fst : s.pull.1 = s.memRead (stackAddress (s.sp + 1)) := rfl

theorem State.pull_snd : s.pull.2 = { s with sp := s.sp + 1, cycles := s.cycles + 3 } := rfl

theorem State.memRead_push (v : Byte) (k : Word) :
    (s.push v).memRead k = if k = stackAddress s.sp then v else s.memRead k :=
  State.memRead_memWrite s (stackAddress s.sp) v k

/-! ### Fetching -/

theorem State.window_eq : s.window = [s.memRead s.pc, s.memRead (s.pc + 1), s.memRead (s.pc + 1 + 1)] := rfl

theorem State.fetchInstr_eq :
    s.fetchInstr = decodeWindow (s.memRead s.pc) (s.memRead (s.pc + 1)) (s.memRead (s.pc + 1 + 1)) := rfl

/-- Placing bytes changes memory alone. -/
theorem State.placeBytes_eq (bs : List Byte) (s : State) (addr : Word) :
    s.placeBytes addr bs = { s with mem := (s.placeBytes addr bs).mem } := by
  induction bs generalizing s addr with
  | nil => rfl
  | cons b bs ih => exact ih (s.memWrite addr b) (addr + 1)

/-- Placing bytes keeps the canonical form. -/
theorem State.wf_placeBytes (bs : List Byte) {s : State} (h : s.mem.wf) (addr : Word) :
    (s.placeBytes addr bs).mem.wf := by
  induction bs generalizing s addr with
  | nil => exact h
  | cons b bs ih => exact ih (State.wf_memWrite h addr b) (addr + 1)

/-! ### Resolvers: the address, and PC and cycles -/

theorem immediate_eq (i : Byte) : immediate i s = (i, { s with pc := s.pc + 1, cycles := s.cycles + 1 }) := rfl

theorem zeroPage_eq (z : Byte) : zeroPage z s = (zext16 z, { s with pc := s.pc + 1, cycles := s.cycles + 1 }) := rfl

theorem zeroPageIndexed_eq (r : Reg) (z : Byte) :
    zeroPageIndexed r z s =
      (zeroPageIndexedEa z (s.reg r), { s with pc := s.pc + 1, cycles := s.cycles + 2 }) := rfl

theorem absolute_eq (w : Word) :
    absolute w s = (w, { s with pc := s.pc + 1 + 1, cycles := s.cycles + 2 }) := rfl

theorem absoluteIndexedLoad_eq (r : Reg) (w : Word) :
    absoluteIndexedLoad r w s =
      (indexedEa w (s.reg r),
        { s with
            pc := s.pc + 1 + 1
            cycles := s.cycles + 2 + (if crossed (indexedEa w (s.reg r)) (s.reg r) then 1 else 0) }) := rfl

theorem absoluteIndexedStore_eq (r : Reg) (w : Word) :
    absoluteIndexedStore r w s =
      (indexedEa w (s.reg r), { s with pc := s.pc + 1 + 1, cycles := s.cycles + 3 }) := rfl

theorem readPtr_eq (q : Byte) : readPtr q s = (pointerAt s q, { s with cycles := s.cycles + 2 }) := rfl

theorem readPtrIndY_eq (q : Byte) : readPtrIndY q s = (indYBase s q, { s with cycles := s.cycles + 2 }) := rfl

@[simp] theorem indYHighAddress_eq (q : Byte) : indYHighAddress q = zext16 (q + 1) := rfl

/-- `(zp),Y` reads its base as every pointer is read (D3). -/
theorem indYBase_eq (q : Byte) : indYBase s q = pointerAt s q := rfl

theorem indexedIndirectX_eq (q : Byte) :
    indexedIndirectX q s =
      (pointerAt s (q + s.x), { s with pc := s.pc + 1, cycles := s.cycles + 4 }) := rfl

theorem indirectIndexedYLoad_eq (q : Byte) :
    indirectIndexedYLoad q s =
      (indexedEa (indYBase s q) s.y,
        { s with
            pc := s.pc + 1
            cycles := s.cycles + 3 + (if crossed (indexedEa (indYBase s q) s.y) s.y then 1 else 0) }) := rfl

theorem indirectIndexedYStore_eq (q : Byte) :
    indirectIndexedYStore q s =
      (indexedEa (indYBase s q) s.y, { s with pc := s.pc + 1, cycles := s.cycles + 4 }) := rfl

@[simp] theorem pointerAt_passByte (q : Byte) : pointerAt s.passByte q = pointerAt s q := rfl
@[simp] theorem indYBase_passByte (q : Byte) : indYBase s.passByte q = indYBase s q := rfl

/-! ### The shared parts of the families -/

theorem load_eq (r : Reg) (v : Byte) : load r v s = { s.setReg r v with p := Flags.setZN s.p v } := by
  cases r <;> rfl

theorem loadAt_eq (r : Reg) (o : Word × State) : loadAt r o = load r (o.2.memRead o.1) (o.2.tick 1) := rfl

theorem storeAt_eq (r : Reg) (o : Word × State) : storeAt r o = o.2.writeByte o.1 (o.2.reg r) := rfl

theorem transfer_eq (dst src : Reg) :
    transfer dst src s = { s.setReg dst (s.reg src) with cycles := s.cycles + 1, p := Flags.setZN s.p (s.reg src) } := by
  cases dst <;> rfl

theorem transferSpToX_eq :
    transferSpToX s = { s with x := s.sp, cycles := s.cycles + 1, p := Flags.setZN s.p s.sp } := rfl

theorem transferXToSp_eq : transferXToSp s = { s with sp := s.x, cycles := s.cycles + 1 } := rfl

theorem pullIntoA_eq (o : Byte × State) :
    pullIntoA o = { o.2 with a := o.1, p := Flags.setZN o.2.p o.1 } := rfl

theorem pullIntoP_eq (o : Byte × State) : pullIntoP o = { o.2 with p := o.1 } := rfl

end Sys2Proof.Machine
end

