-- ==== Sys2Proof/Laws/Exec.lean ====
section
/-! SUPPORT. The state each instruction's meaning gives, with PC and `cycles` summed up: one equation per instruction, for
proofs to rewrite with instead of unfolding the meaning. -/

namespace Sys2Proof.Machine

variable (s : State)

/-- The state with PC advanced by `n` bytes and `c` cycles charged. -/
abbrev State.advanced (s : State) (n : Word) (c : Nat) : State := { s with pc := s.pc + n, cycles := s.cycles + c }

theorem advance_two (w : Word) : w + 1 + 1 = w + 2 := by
  rw [BitVec.add_assoc]; rfl

theorem advance_three (w : Word) : w + 1 + 1 + 1 = w + 3 := by
  rw [advance_two, BitVec.add_assoc]; rfl

/-- States whose PC and `cycles` are equal, and that are equal once those are set alike, are equal. -/
theorem next_eq {t u : State} (hp : t.pc = u.pc) (hc : t.cycles = u.cycles)
    (h : { t with pc := u.pc, cycles := u.cycles } = u) :
    (Host.Outcome.next t : Host.Outcome State Fault Refusal) = .next u := by
  rw [← h, ← hp, ← hc]

theorem charge_absIndexed (n : Nat) (b : Bool) :
    n + 1 + 1 + 1 + (if b then 1 else 0) + 1 = n + if b then 5 else 4 := by cases b <;> rfl

theorem charge_indY (n : Nat) (b : Bool) :
    n + 1 + 1 + 1 + 1 + (if b then 1 else 0) + 1 = n + if b then 6 else 5 := by cases b <;> rfl

theorem exec_ldaImm (i : Byte) : exec (.ldaImm i) s =
    .next (load .a i (s.advanced 2 2)) :=
  next_eq (advance_two s.pc) rfl rfl

theorem exec_ldaZp (z : Byte) : exec (.ldaZp z) s =
    .next (load .a (s.memRead (zext16 z)) (s.advanced 2 3)) :=
  next_eq (advance_two s.pc) rfl rfl

theorem exec_ldaZpX (z : Byte) : exec (.ldaZpX z) s =
    .next (load .a (s.memRead (zeroPageIndexedEa z s.x)) (s.advanced 2 4)) :=
  next_eq (advance_two s.pc) rfl rfl

theorem exec_ldaAbs (w : Word) : exec (.ldaAbs w) s =
    .next (load .a (s.memRead w) (s.advanced 3 4)) :=
  next_eq (advance_three s.pc) rfl rfl

theorem exec_ldaAbsX (w : Word) : exec (.ldaAbsX w) s =
    .next (load .a (s.memRead (indexedEa w s.x)) (s.advanced 3 (if crossed (indexedEa w s.x) s.x then 5 else 4))) :=
  next_eq (advance_three s.pc) (charge_absIndexed s.cycles _) rfl

theorem exec_ldaAbsY (w : Word) : exec (.ldaAbsY w) s =
    .next (load .a (s.memRead (indexedEa w s.y)) (s.advanced 3 (if crossed (indexedEa w s.y) s.y then 5 else 4))) :=
  next_eq (advance_three s.pc) (charge_absIndexed s.cycles _) rfl

theorem exec_ldaIndX (q : Byte) : exec (.ldaIndX q) s =
    .next (load .a (s.memRead (pointerAt s (q + s.x))) (s.advanced 2 6)) :=
  next_eq (advance_two s.pc) rfl rfl

theorem exec_ldaIndY (q : Byte) : exec (.ldaIndY q) s =
    .next (load .a (s.memRead (indexedEa (indYBase s q) s.y)) (s.advanced 2 (if crossed (indexedEa (indYBase s q) s.y) s.y then 6 else 5))) :=
  next_eq (advance_two s.pc) (charge_indY s.cycles _) rfl

theorem exec_ldxImm (i : Byte) : exec (.ldxImm i) s =
    .next (load .x i (s.advanced 2 2)) :=
  next_eq (advance_two s.pc) rfl rfl

theorem exec_ldxZp (z : Byte) : exec (.ldxZp z) s =
    .next (load .x (s.memRead (zext16 z)) (s.advanced 2 3)) :=
  next_eq (advance_two s.pc) rfl rfl

theorem exec_ldxZpY (z : Byte) : exec (.ldxZpY z) s =
    .next (load .x (s.memRead (zeroPageIndexedEa z s.y)) (s.advanced 2 4)) :=
  next_eq (advance_two s.pc) rfl rfl

theorem exec_ldxAbs (w : Word) : exec (.ldxAbs w) s =
    .next (load .x (s.memRead w) (s.advanced 3 4)) :=
  next_eq (advance_three s.pc) rfl rfl

theorem exec_ldxAbsY (w : Word) : exec (.ldxAbsY w) s =
    .next (load .x (s.memRead (indexedEa w s.y)) (s.advanced 3 (if crossed (indexedEa w s.y) s.y then 5 else 4))) :=
  next_eq (advance_three s.pc) (charge_absIndexed s.cycles _) rfl

theorem exec_ldyImm (i : Byte) : exec (.ldyImm i) s =
    .next (load .y i (s.advanced 2 2)) :=
  next_eq (advance_two s.pc) rfl rfl

theorem exec_ldyZp (z : Byte) : exec (.ldyZp z) s =
    .next (load .y (s.memRead (zext16 z)) (s.advanced 2 3)) :=
  next_eq (advance_two s.pc) rfl rfl

theorem exec_ldyZpX (z : Byte) : exec (.ldyZpX z) s =
    .next (load .y (s.memRead (zeroPageIndexedEa z s.x)) (s.advanced 2 4)) :=
  next_eq (advance_two s.pc) rfl rfl

theorem exec_ldyAbs (w : Word) : exec (.ldyAbs w) s =
    .next (load .y (s.memRead w) (s.advanced 3 4)) :=
  next_eq (advance_three s.pc) rfl rfl

theorem exec_ldyAbsX (w : Word) : exec (.ldyAbsX w) s =
    .next (load .y (s.memRead (indexedEa w s.x)) (s.advanced 3 (if crossed (indexedEa w s.x) s.x then 5 else 4))) :=
  next_eq (advance_three s.pc) (charge_absIndexed s.cycles _) rfl

theorem exec_staZp (z : Byte) : exec (.staZp z) s =
    .next ((s.advanced 2 3).memWrite (zext16 z) s.a) :=
  next_eq (advance_two s.pc) rfl rfl

theorem exec_staZpX (z : Byte) : exec (.staZpX z) s =
    .next ((s.advanced 2 4).memWrite (zeroPageIndexedEa z s.x) s.a) :=
  next_eq (advance_two s.pc) rfl rfl

theorem exec_staAbs (w : Word) : exec (.staAbs w) s =
    .next ((s.advanced 3 4).memWrite w s.a) :=
  next_eq (advance_three s.pc) rfl rfl

theorem exec_staAbsX (w : Word) : exec (.staAbsX w) s =
    .next ((s.advanced 3 5).memWrite (indexedEa w s.x) s.a) :=
  next_eq (advance_three s.pc) rfl rfl

theorem exec_staAbsY (w : Word) : exec (.staAbsY w) s =
    .next ((s.advanced 3 5).memWrite (indexedEa w s.y) s.a) :=
  next_eq (advance_three s.pc) rfl rfl

theorem exec_staIndX (q : Byte) : exec (.staIndX q) s =
    .next ((s.advanced 2 6).memWrite (pointerAt s (q + s.x)) s.a) :=
  next_eq (advance_two s.pc) rfl rfl

theorem exec_staIndY (q : Byte) : exec (.staIndY q) s =
    .next ((s.advanced 2 6).memWrite (indexedEa (indYBase s q) s.y) s.a) :=
  next_eq (advance_two s.pc) rfl rfl

theorem exec_stxZp (z : Byte) : exec (.stxZp z) s =
    .next ((s.advanced 2 3).memWrite (zext16 z) s.x) :=
  next_eq (advance_two s.pc) rfl rfl

theorem exec_stxZpY (z : Byte) : exec (.stxZpY z) s =
    .next ((s.advanced 2 4).memWrite (zeroPageIndexedEa z s.y) s.x) :=
  next_eq (advance_two s.pc) rfl rfl

theorem exec_stxAbs (w : Word) : exec (.stxAbs w) s =
    .next ((s.advanced 3 4).memWrite w s.x) :=
  next_eq (advance_three s.pc) rfl rfl

theorem exec_styZp (z : Byte) : exec (.styZp z) s =
    .next ((s.advanced 2 3).memWrite (zext16 z) s.y) :=
  next_eq (advance_two s.pc) rfl rfl

theorem exec_styZpX (z : Byte) : exec (.styZpX z) s =
    .next ((s.advanced 2 4).memWrite (zeroPageIndexedEa z s.x) s.y) :=
  next_eq (advance_two s.pc) rfl rfl

theorem exec_styAbs (w : Word) : exec (.styAbs w) s =
    .next ((s.advanced 3 4).memWrite w s.y) :=
  next_eq (advance_three s.pc) rfl rfl

theorem exec_tax : exec .tax s = .next (load .x s.a (s.advanced 1 2)) := rfl

theorem exec_tay : exec .tay s = .next (load .y s.a (s.advanced 1 2)) := rfl

theorem exec_txa : exec .txa s = .next (load .a s.x (s.advanced 1 2)) := rfl

theorem exec_tya : exec .tya s = .next (load .a s.y (s.advanced 1 2)) := rfl

theorem exec_tsx : exec .tsx s = .next (load .x s.sp (s.advanced 1 2)) := rfl

theorem exec_txs : exec .txs s = .next ((s.advanced 1 2).setSp s.x) := rfl

theorem exec_pha : exec .pha s = .next (((s.advanced 1 3).memWrite (stackAddress s.sp) s.a).setSp (s.sp - 1)) := rfl

/-- PHP pushes P with no bit forced (D6). -/
theorem exec_php : exec .php s = .next (((s.advanced 1 3).memWrite (stackAddress s.sp) s.p).setSp (s.sp - 1)) := by
  have h : s.p ||| Config.phpForceMask = s.p := by simp
  rw [← congrArg (fun v => Host.Outcome.next (((s.advanced 1 3).memWrite (stackAddress s.sp) v).setSp (s.sp - 1))) h]
  rfl

theorem exec_pla : exec .pla s =
    .next (load .a (s.memRead (stackAddress (s.sp + 1))) ((s.advanced 1 4).setSp (s.sp + 1))) := rfl

theorem exec_plp : exec .plp s =
    .next (((s.advanced 1 4).setSp (s.sp + 1)).setP (s.memRead (stackAddress (s.sp + 1)))) := rfl

theorem exec_nop : exec .nop s = .next (s.advanced 1 2) := rfl

theorem exec_unknown (op : Byte) : exec (.unknown op) s = .next ((s.advanced 1 1).emitUnknown op s.pc) := rfl

end Sys2Proof.Machine
end

