-- ==== Sys2Proof/Laws/PerInstr.lean ====
section
/-! SUPPORT. Statements about every instruction as syntax, one lemma per constructor. Family EncodedLength: an
instruction's encoding has the length its opcode byte alone fixes (30_encoding.md R71). -/

namespace Sys2Proof.Laws.EncodedLength

/-- A well-formed instruction's bytes are as many as its length, one more than the operand bytes its opcode calls for. -/
def Statement (i : Instr) : Prop :=
  i.wellFormed = true → (encode i).length = i.length ∧ i.length = 1 + operandCount i.opcode

theorem ldaImm (v : Byte) : Statement (.ldaImm v) := fun _ => ⟨rfl, rfl⟩
theorem ldaZp (v : Byte) : Statement (.ldaZp v) := fun _ => ⟨rfl, rfl⟩
theorem ldaZpX (v : Byte) : Statement (.ldaZpX v) := fun _ => ⟨rfl, rfl⟩
theorem ldaAbs (v : Word) : Statement (.ldaAbs v) := fun _ => ⟨rfl, rfl⟩
theorem ldaAbsX (v : Word) : Statement (.ldaAbsX v) := fun _ => ⟨rfl, rfl⟩
theorem ldaAbsY (v : Word) : Statement (.ldaAbsY v) := fun _ => ⟨rfl, rfl⟩
theorem ldaIndX (v : Byte) : Statement (.ldaIndX v) := fun _ => ⟨rfl, rfl⟩
theorem ldaIndY (v : Byte) : Statement (.ldaIndY v) := fun _ => ⟨rfl, rfl⟩
theorem ldxImm (v : Byte) : Statement (.ldxImm v) := fun _ => ⟨rfl, rfl⟩
theorem ldxZp (v : Byte) : Statement (.ldxZp v) := fun _ => ⟨rfl, rfl⟩
theorem ldxZpY (v : Byte) : Statement (.ldxZpY v) := fun _ => ⟨rfl, rfl⟩
theorem ldxAbs (v : Word) : Statement (.ldxAbs v) := fun _ => ⟨rfl, rfl⟩
theorem ldxAbsY (v : Word) : Statement (.ldxAbsY v) := fun _ => ⟨rfl, rfl⟩
theorem ldyImm (v : Byte) : Statement (.ldyImm v) := fun _ => ⟨rfl, rfl⟩
theorem ldyZp (v : Byte) : Statement (.ldyZp v) := fun _ => ⟨rfl, rfl⟩
theorem ldyZpX (v : Byte) : Statement (.ldyZpX v) := fun _ => ⟨rfl, rfl⟩
theorem ldyAbs (v : Word) : Statement (.ldyAbs v) := fun _ => ⟨rfl, rfl⟩
theorem ldyAbsX (v : Word) : Statement (.ldyAbsX v) := fun _ => ⟨rfl, rfl⟩
theorem staZp (v : Byte) : Statement (.staZp v) := fun _ => ⟨rfl, rfl⟩
theorem staZpX (v : Byte) : Statement (.staZpX v) := fun _ => ⟨rfl, rfl⟩
theorem staAbs (v : Word) : Statement (.staAbs v) := fun _ => ⟨rfl, rfl⟩
theorem staAbsX (v : Word) : Statement (.staAbsX v) := fun _ => ⟨rfl, rfl⟩
theorem staAbsY (v : Word) : Statement (.staAbsY v) := fun _ => ⟨rfl, rfl⟩
theorem staIndX (v : Byte) : Statement (.staIndX v) := fun _ => ⟨rfl, rfl⟩
theorem staIndY (v : Byte) : Statement (.staIndY v) := fun _ => ⟨rfl, rfl⟩
theorem stxZp (v : Byte) : Statement (.stxZp v) := fun _ => ⟨rfl, rfl⟩
theorem stxZpY (v : Byte) : Statement (.stxZpY v) := fun _ => ⟨rfl, rfl⟩
theorem stxAbs (v : Word) : Statement (.stxAbs v) := fun _ => ⟨rfl, rfl⟩
theorem styZp (v : Byte) : Statement (.styZp v) := fun _ => ⟨rfl, rfl⟩
theorem styZpX (v : Byte) : Statement (.styZpX v) := fun _ => ⟨rfl, rfl⟩
theorem styAbs (v : Word) : Statement (.styAbs v) := fun _ => ⟨rfl, rfl⟩
theorem tax : Statement .tax := fun _ => ⟨rfl, rfl⟩
theorem tay : Statement .tay := fun _ => ⟨rfl, rfl⟩
theorem txa : Statement .txa := fun _ => ⟨rfl, rfl⟩
theorem tya : Statement .tya := fun _ => ⟨rfl, rfl⟩
theorem tsx : Statement .tsx := fun _ => ⟨rfl, rfl⟩
theorem txs : Statement .txs := fun _ => ⟨rfl, rfl⟩
theorem pha : Statement .pha := fun _ => ⟨rfl, rfl⟩
theorem php : Statement .php := fun _ => ⟨rfl, rfl⟩
theorem pla : Statement .pla := fun _ => ⟨rfl, rfl⟩
theorem plp : Statement .plp := fun _ => ⟨rfl, rfl⟩
theorem nop : Statement .nop := fun _ => ⟨rfl, rfl⟩
theorem unknown (op : Byte) : Statement (.unknown op) := fun h => by
  have hn : dispatchTable op = none := Option.isNone_iff_eq_none.1 h
  exact ⟨rfl, by simp [Instr.opcode, Instr.length, operandCount, hn]⟩

end Sys2Proof.Laws.EncodedLength
end

