-- ==== Sys2Proof/Laws/Shape.lean ====
section
/-! SUPPORT. The inversion lemma of exec: the few shapes an instruction's next state can have. -/

namespace Sys2Proof.Machine

open Sys2Proof.Safety

/-- Everything one instruction can do: PC advances by its length, 1 to 6 cycles are charged, and then it is a load of a
register, a write of one byte, or one of the seven instructions that are neither. -/
inductive Shape (s : State) : Instr → State → Prop where
  | load (i : Instr) (r : Reg) (v : Byte) (c : Nat) (hz : znRegister i = some r) (hw : writesMemory i = false)
      (hi : i ∉ [Instr.pha, .php, .pla, .plp, .txs]) (hu : ∀ op, i ≠ .unknown op) (hc : 2 ≤ c ∧ c ≤ 6) :
      Shape s i (load r v (s.advanced (BitVec.ofNat 16 i.length) c))
  | store (i : Instr) (ea : Word) (v : Byte) (c : Nat) (hz : znRegister i = none) (hw : writesMemory i = true)
      (hi : i ∉ [Instr.pha, .php, .pla, .plp, .txs]) (hu : ∀ op, i ≠ .unknown op) (hc : 2 ≤ c ∧ c ≤ 6)
      (hacc : ∀ acc, acc ∈ dataAccesses i s → (∃ k, acc = .read k) ∨ acc = .write ea v)
      (hmem : Access.write ea v ∈ dataAccesses i s) :
      Shape s i ((s.advanced (BitVec.ofNat 16 i.length) c).memWrite ea v)
  | txs : Shape s .txs ((s.advanced 1 2).setSp s.x)
  | pha : Shape s .pha (((s.advanced 1 3).memWrite (stackAddress s.sp) s.a).setSp (s.sp - 1))
  | php : Shape s .php (((s.advanced 1 3).memWrite (stackAddress s.sp) s.p).setSp (s.sp - 1))
  | pla : Shape s .pla
      (Machine.load .a (s.memRead (stackAddress (s.sp + 1))) ((s.advanced 1 4).setSp (s.sp + 1)))
  | plp : Shape s .plp (((s.advanced 1 4).setSp (s.sp + 1)).setP (s.memRead (stackAddress (s.sp + 1))))
  | nop : Shape s .nop (s.advanced 1 2)
  | unknown (op : Byte) : Shape s (.unknown op) ((s.advanced 1 1).emitUnknown op s.pc)

/-- The next state of an instruction has one of the shapes. -/
theorem exec_shape (i : Instr) (s t : State) (h : exec i s = .next t) : Shape s i t := by
  cases i
  case ldaImm v =>
    obtain rfl := Host.Outcome.next.inj ((exec_ldaImm s v).symm.trans h)
    exact .load _ _ _ _ rfl rfl (by simp) (by simp) (by decide)
  case ldaZp v =>
    obtain rfl := Host.Outcome.next.inj ((exec_ldaZp s v).symm.trans h)
    exact .load _ _ _ _ rfl rfl (by simp) (by simp) (by decide)
  case ldaZpX v =>
    obtain rfl := Host.Outcome.next.inj ((exec_ldaZpX s v).symm.trans h)
    exact .load _ _ _ _ rfl rfl (by simp) (by simp) (by decide)
  case ldaAbs v =>
    obtain rfl := Host.Outcome.next.inj ((exec_ldaAbs s v).symm.trans h)
    exact .load _ _ _ _ rfl rfl (by simp) (by simp) (by decide)
  case ldaAbsX v =>
    obtain rfl := Host.Outcome.next.inj ((exec_ldaAbsX s v).symm.trans h)
    exact .load _ _ _ _ rfl rfl (by simp) (by simp) (by split <;> decide)
  case ldaAbsY v =>
    obtain rfl := Host.Outcome.next.inj ((exec_ldaAbsY s v).symm.trans h)
    exact .load _ _ _ _ rfl rfl (by simp) (by simp) (by split <;> decide)
  case ldaIndX v =>
    obtain rfl := Host.Outcome.next.inj ((exec_ldaIndX s v).symm.trans h)
    exact .load _ _ _ _ rfl rfl (by simp) (by simp) (by decide)
  case ldaIndY v =>
    obtain rfl := Host.Outcome.next.inj ((exec_ldaIndY s v).symm.trans h)
    exact .load _ _ _ _ rfl rfl (by simp) (by simp) (by split <;> decide)
  case ldxImm v =>
    obtain rfl := Host.Outcome.next.inj ((exec_ldxImm s v).symm.trans h)
    exact .load _ _ _ _ rfl rfl (by simp) (by simp) (by decide)
  case ldxZp v =>
    obtain rfl := Host.Outcome.next.inj ((exec_ldxZp s v).symm.trans h)
    exact .load _ _ _ _ rfl rfl (by simp) (by simp) (by decide)
  case ldxZpY v =>
    obtain rfl := Host.Outcome.next.inj ((exec_ldxZpY s v).symm.trans h)
    exact .load _ _ _ _ rfl rfl (by simp) (by simp) (by decide)
  case ldxAbs v =>
    obtain rfl := Host.Outcome.next.inj ((exec_ldxAbs s v).symm.trans h)
    exact .load _ _ _ _ rfl rfl (by simp) (by simp) (by decide)
  case ldxAbsY v =>
    obtain rfl := Host.Outcome.next.inj ((exec_ldxAbsY s v).symm.trans h)
    exact .load _ _ _ _ rfl rfl (by simp) (by simp) (by split <;> decide)
  case ldyImm v =>
    obtain rfl := Host.Outcome.next.inj ((exec_ldyImm s v).symm.trans h)
    exact .load _ _ _ _ rfl rfl (by simp) (by simp) (by decide)
  case ldyZp v =>
    obtain rfl := Host.Outcome.next.inj ((exec_ldyZp s v).symm.trans h)
    exact .load _ _ _ _ rfl rfl (by simp) (by simp) (by decide)
  case ldyZpX v =>
    obtain rfl := Host.Outcome.next.inj ((exec_ldyZpX s v).symm.trans h)
    exact .load _ _ _ _ rfl rfl (by simp) (by simp) (by decide)
  case ldyAbs v =>
    obtain rfl := Host.Outcome.next.inj ((exec_ldyAbs s v).symm.trans h)
    exact .load _ _ _ _ rfl rfl (by simp) (by simp) (by decide)
  case ldyAbsX v =>
    obtain rfl := Host.Outcome.next.inj ((exec_ldyAbsX s v).symm.trans h)
    exact .load _ _ _ _ rfl rfl (by simp) (by simp) (by split <;> decide)
  case staZp v =>
    obtain rfl := Host.Outcome.next.inj ((exec_staZp s v).symm.trans h)
    exact .store _ _ _ _ rfl rfl (by simp) (by simp) (by decide) (by simp [dataAccesses]) (by simp [dataAccesses])
  case staZpX v =>
    obtain rfl := Host.Outcome.next.inj ((exec_staZpX s v).symm.trans h)
    exact .store _ _ _ _ rfl rfl (by simp) (by simp) (by decide) (by simp [dataAccesses]) (by simp [dataAccesses])
  case staAbs v =>
    obtain rfl := Host.Outcome.next.inj ((exec_staAbs s v).symm.trans h)
    exact .store _ _ _ _ rfl rfl (by simp) (by simp) (by decide) (by simp [dataAccesses]) (by simp [dataAccesses])
  case staAbsX v =>
    obtain rfl := Host.Outcome.next.inj ((exec_staAbsX s v).symm.trans h)
    exact .store _ _ _ _ rfl rfl (by simp) (by simp) (by decide) (by simp [dataAccesses]) (by simp [dataAccesses])
  case staAbsY v =>
    obtain rfl := Host.Outcome.next.inj ((exec_staAbsY s v).symm.trans h)
    exact .store _ _ _ _ rfl rfl (by simp) (by simp) (by decide) (by simp [dataAccesses]) (by simp [dataAccesses])
  case staIndX v =>
    obtain rfl := Host.Outcome.next.inj ((exec_staIndX s v).symm.trans h)
    exact .store _ _ _ _ rfl rfl (by simp) (by simp) (by decide) (by simp [dataAccesses, pointerReadsX]) (by simp [dataAccesses])
  case staIndY v =>
    obtain rfl := Host.Outcome.next.inj ((exec_staIndY s v).symm.trans h)
    exact .store _ _ _ _ rfl rfl (by simp) (by simp) (by decide) (by simp [dataAccesses, pointerReadsY]) (by simp [dataAccesses])
  case stxZp v =>
    obtain rfl := Host.Outcome.next.inj ((exec_stxZp s v).symm.trans h)
    exact .store _ _ _ _ rfl rfl (by simp) (by simp) (by decide) (by simp [dataAccesses]) (by simp [dataAccesses])
  case stxZpY v =>
    obtain rfl := Host.Outcome.next.inj ((exec_stxZpY s v).symm.trans h)
    exact .store _ _ _ _ rfl rfl (by simp) (by simp) (by decide) (by simp [dataAccesses]) (by simp [dataAccesses])
  case stxAbs v =>
    obtain rfl := Host.Outcome.next.inj ((exec_stxAbs s v).symm.trans h)
    exact .store _ _ _ _ rfl rfl (by simp) (by simp) (by decide) (by simp [dataAccesses]) (by simp [dataAccesses])
  case styZp v =>
    obtain rfl := Host.Outcome.next.inj ((exec_styZp s v).symm.trans h)
    exact .store _ _ _ _ rfl rfl (by simp) (by simp) (by decide) (by simp [dataAccesses]) (by simp [dataAccesses])
  case styZpX v =>
    obtain rfl := Host.Outcome.next.inj ((exec_styZpX s v).symm.trans h)
    exact .store _ _ _ _ rfl rfl (by simp) (by simp) (by decide) (by simp [dataAccesses]) (by simp [dataAccesses])
  case styAbs v =>
    obtain rfl := Host.Outcome.next.inj ((exec_styAbs s v).symm.trans h)
    exact .store _ _ _ _ rfl rfl (by simp) (by simp) (by decide) (by simp [dataAccesses]) (by simp [dataAccesses])
  case tax =>
    obtain rfl := Host.Outcome.next.inj ((exec_tax s).symm.trans h)
    exact .load _ _ _ _ rfl rfl (by simp) (by simp) (by decide)
  case tay =>
    obtain rfl := Host.Outcome.next.inj ((exec_tay s).symm.trans h)
    exact .load _ _ _ _ rfl rfl (by simp) (by simp) (by decide)
  case txa =>
    obtain rfl := Host.Outcome.next.inj ((exec_txa s).symm.trans h)
    exact .load _ _ _ _ rfl rfl (by simp) (by simp) (by decide)
  case tya =>
    obtain rfl := Host.Outcome.next.inj ((exec_tya s).symm.trans h)
    exact .load _ _ _ _ rfl rfl (by simp) (by simp) (by decide)
  case tsx =>
    obtain rfl := Host.Outcome.next.inj ((exec_tsx s).symm.trans h)
    exact .load _ _ _ _ rfl rfl (by simp) (by simp) (by decide)
  case txs =>
    obtain rfl := Host.Outcome.next.inj ((exec_txs s).symm.trans h)
    exact .txs
  case pha =>
    obtain rfl := Host.Outcome.next.inj ((exec_pha s).symm.trans h)
    exact .pha
  case php =>
    obtain rfl := Host.Outcome.next.inj ((exec_php s).symm.trans h)
    exact .php
  case pla =>
    obtain rfl := Host.Outcome.next.inj ((exec_pla s).symm.trans h)
    exact .pla
  case plp =>
    obtain rfl := Host.Outcome.next.inj ((exec_plp s).symm.trans h)
    exact .plp
  case nop =>
    obtain rfl := Host.Outcome.next.inj ((exec_nop s).symm.trans h)
    exact .nop
  case unknown op =>
    obtain rfl := Host.Outcome.next.inj ((exec_unknown s op).symm.trans h)
    exact .unknown op

end Sys2Proof.Machine
end

