-- ==== Sys2Proof/Laws/Step.lean ====
section
/-! SUPPORT. What a step can do. -/

namespace Sys2Proof.Machine

/-- No meaning stops: every instruction gives a next state in every state (60_exceptions.md R220). -/
theorem exec_total (i : Instr) (s : State) : ∃ t, exec i s = .next t := by
  cases i <;> exact ⟨_, rfl⟩

/-- A step that gives a next state ran the fetched instruction, in a machine that has been reset. -/
theorem step_cases {s t : State} (h : step s = .next t) : s.defined = true ∧ exec s.fetchInstr s = .next t := by
  unfold step at h
  split at h
  · next hd => exact ⟨hd, h⟩
  · cases h

theorem step_defined {s : State} (h : s.defined = true) : step s = exec s.fetchInstr s := if_pos h

/-- A run of one step more is a run from the next state. -/
theorem core_run_succ {s t : State} (h : step s = .next t) (k : Nat) :
    Sys2Proof.core.run (k + 1) s = Sys2Proof.core.run k t := by
  have hs : Sys2Proof.core.step s = .next t := h
  exact (Host.Core.run.eq_2 Sys2Proof.core s k).trans (by rw [hs])

theorem wellFormed_fetchInstr (s : State) : s.fetchInstr.wellFormed = true := wellFormed_decodeWindow _ _ _

end Sys2Proof.Machine
end

