-- ==== Sys2Proof/Tests/Slice0.lean ====
section
/-! SUPPORT. The model's own tests, each by decide on one step or one call, with expected values from
spec/95_test_vectors.md (the vector's name stands in each comment) or from the encoding lines of the family files; and for
each statement with hypotheses a concrete state that meets them. -/

namespace Sys2Proof.Tests

open Sys2Proof.Machine Sys2Proof.Safety

/-! ### Helpers -/

/-- The state after reset with bytes at an address and PC there ("at a" in 95_test_vectors.md). -/
def placed (addr : Word) (bytes : List Byte) : State := (State.reset.setPc addr).placeBytes addr bytes

/-- One more byte of memory. -/
def poke (s : State) (addr : Word) (v : Byte) : State := s.memWrite addr v

/-- A value read from the next state of an outcome. -/
def view {σ α : Type} (f : σ → α) : Host.Outcome σ Fault Refusal → Option α
  | .next t => some (f t)
  | .fault _ => none
  | .refused _ => none

/-- PC, SP, A, X, Y, P and cycles as numbers. -/
def regs (s : State) : List Nat := [s.pc.toNat, s.sp.toNat, s.a.toNat, s.x.toNat, s.y.toNat, s.p.toNat, s.cycles]

/-- The registers after one step. -/
def ran (s : State) : Option (List Nat) := view regs (step s)

/-- A byte of memory after one step. -/
def ranByte (addr : Word) (s : State) : Option Byte := view (fun t => t.memRead addr) (step s)

/-- The overrun and the registers after execute. -/
def executed (budget : Int) (s : State) : Option (Int × List Nat) :=
  view (fun r => (r.1, regs r.2)) (execute budget s)

/-! ### Well-formedness: the one check, and a term it refuses (30_encoding.md R80) -/

theorem test_wellFormed_refuses_assigned_opcode : (Instr.unknown 0xA9).wellFormed = false := by decide

theorem test_wellFormed_takes_unassigned_opcode : (Instr.unknown 0x02).wellFormed = true := by decide

/-! ### Decoding: one word per constructor, written out from the encoding lines of the family files -/

/-- R161: 10101001 01000010. -/
theorem test_decode_ldaImm : decode [0xA9, 0x42] = .ok (.ldaImm 0x42, []) := by decide

/-- R162: 10100101 01000010. -/
theorem test_decode_ldaZp : decode [0xA5, 0x42] = .ok (.ldaZp 0x42, []) := by decide

/-- R163: 10110101 01000010. -/
theorem test_decode_ldaZpX : decode [0xB5, 0x42] = .ok (.ldaZpX 0x42, []) := by decide

/-- R164: 10101101 00010010 00110100. -/
theorem test_decode_ldaAbs : decode [0xAD, 0x12, 0x34] = .ok (.ldaAbs 0x1234, []) := by decide

/-- R165: 10111101 00010010 00110100. -/
theorem test_decode_ldaAbsX : decode [0xBD, 0x12, 0x34] = .ok (.ldaAbsX 0x1234, []) := by decide

/-- R166: 10111001 00010010 00110100. -/
theorem test_decode_ldaAbsY : decode [0xB9, 0x12, 0x34] = .ok (.ldaAbsY 0x1234, []) := by decide

/-- R167: 10100001 01000010. -/
theorem test_decode_ldaIndX : decode [0xA1, 0x42] = .ok (.ldaIndX 0x42, []) := by decide

/-- R168: 10110001 01000010. -/
theorem test_decode_ldaIndY : decode [0xB1, 0x42] = .ok (.ldaIndY 0x42, []) := by decide

/-- R169: 10100010 01000010. -/
theorem test_decode_ldxImm : decode [0xA2, 0x42] = .ok (.ldxImm 0x42, []) := by decide

/-- R170: 10100110 01000010. -/
theorem test_decode_ldxZp : decode [0xA6, 0x42] = .ok (.ldxZp 0x42, []) := by decide

/-- R171: 10110110 01000010. -/
theorem test_decode_ldxZpY : decode [0xB6, 0x42] = .ok (.ldxZpY 0x42, []) := by decide

/-- R172: 10101110 00010010 00110100. -/
theorem test_decode_ldxAbs : decode [0xAE, 0x12, 0x34] = .ok (.ldxAbs 0x1234, []) := by decide

/-- R173: 10111110 00010010 00110100. -/
theorem test_decode_ldxAbsY : decode [0xBE, 0x12, 0x34] = .ok (.ldxAbsY 0x1234, []) := by decide

/-- R174: 10100000 01000010. -/
theorem test_decode_ldyImm : decode [0xA0, 0x42] = .ok (.ldyImm 0x42, []) := by decide

/-- R175: 10100100 01000010. -/
theorem test_decode_ldyZp : decode [0xA4, 0x42] = .ok (.ldyZp 0x42, []) := by decide

/-- R176: 10110100 01000010. -/
theorem test_decode_ldyZpX : decode [0xB4, 0x42] = .ok (.ldyZpX 0x42, []) := by decide

/-- R177: 10101100 00010010 00110100. -/
theorem test_decode_ldyAbs : decode [0xAC, 0x12, 0x34] = .ok (.ldyAbs 0x1234, []) := by decide

/-- R178: 10111100 00010010 00110100. -/
theorem test_decode_ldyAbsX : decode [0xBC, 0x12, 0x34] = .ok (.ldyAbsX 0x1234, []) := by decide

/-- R181: 10000101 01000010. -/
theorem test_decode_staZp : decode [0x85, 0x42] = .ok (.staZp 0x42, []) := by decide

/-- R182: 10010101 01000010. -/
theorem test_decode_staZpX : decode [0x95, 0x42] = .ok (.staZpX 0x42, []) := by decide

/-- R183: 10001101 00010010 00110100. -/
theorem test_decode_staAbs : decode [0x8D, 0x12, 0x34] = .ok (.staAbs 0x1234, []) := by decide

/-- R184: 10011101 00010010 00110100. -/
theorem test_decode_staAbsX : decode [0x9D, 0x12, 0x34] = .ok (.staAbsX 0x1234, []) := by decide

/-- R185: 10011001 00010010 00110100. -/
theorem test_decode_staAbsY : decode [0x99, 0x12, 0x34] = .ok (.staAbsY 0x1234, []) := by decide

/-- R186: 10000001 01000010. -/
theorem test_decode_staIndX : decode [0x81, 0x42] = .ok (.staIndX 0x42, []) := by decide

/-- R187: 10010001 01000010. -/
theorem test_decode_staIndY : decode [0x91, 0x42] = .ok (.staIndY 0x42, []) := by decide

/-- R188: 10000110 01000010. -/
theorem test_decode_stxZp : decode [0x86, 0x42] = .ok (.stxZp 0x42, []) := by decide

/-- R189: 10010110 01000010. -/
theorem test_decode_stxZpY : decode [0x96, 0x42] = .ok (.stxZpY 0x42, []) := by decide

/-- R190: 10001110 00010010 00110100. -/
theorem test_decode_stxAbs : decode [0x8E, 0x12, 0x34] = .ok (.stxAbs 0x1234, []) := by decide

/-- R191: 10000100 01000010. -/
theorem test_decode_styZp : decode [0x84, 0x42] = .ok (.styZp 0x42, []) := by decide

/-- R192: 10010100 01000010. -/
theorem test_decode_styZpX : decode [0x94, 0x42] = .ok (.styZpX 0x42, []) := by decide

/-- R193: 10001100 00010010 00110100. -/
theorem test_decode_styAbs : decode [0x8C, 0x12, 0x34] = .ok (.styAbs 0x1234, []) := by decide

/-- R201: 10101010. -/
theorem test_decode_tax : decode [0xAA] = .ok (.tax, []) := by decide

/-- R202: 10101000. -/
theorem test_decode_tay : decode [0xA8] = .ok (.tay, []) := by decide

/-- R203: 10001010. -/
theorem test_decode_txa : decode [0x8A] = .ok (.txa, []) := by decide

/-- R204: 10011000. -/
theorem test_decode_tya : decode [0x98] = .ok (.tya, []) := by decide

/-- R205: 10111010. -/
theorem test_decode_tsx : decode [0xBA] = .ok (.tsx, []) := by decide

/-- R206: 10011010. -/
theorem test_decode_txs : decode [0x9A] = .ok (.txs, []) := by decide

/-- R211: 01001000. -/
theorem test_decode_pha : decode [0x48] = .ok (.pha, []) := by decide

/-- R212: 00001000. -/
theorem test_decode_php : decode [0x08] = .ok (.php, []) := by decide

/-- R213: 01101000. -/
theorem test_decode_pla : decode [0x68] = .ok (.pla, []) := by decide

/-- R214: 00101000. -/
theorem test_decode_plp : decode [0x28] = .ok (.plp, []) := by decide

/-- R150: 11101010. -/
theorem test_decode_nop : decode [0xEA] = .ok (.nop, []) := by decide

/-- R80: 00000010 is no entry of the table; the bytes after it are left. -/
theorem test_decode_unknown : decode [0x02, 0xA9, 0x07] = .ok (.unknown 0x02, [0xA9, 0x07]) := by decide

/-- R70: an absolute form cut short is rejected by name. -/
theorem test_decode_cut_short : decode [0xAD, 0x12] = .error (.missingOperand 0xAD) := by decide

theorem test_decode_nothing : decode [] = .error .noOpcode := by decide

/-- The table word of LDA absolute with its operand bytes zero. -/
theorem test_decodeTableWord : decodeTableWord 8 0xAD = some (.ldaAbs 0x0000) := by decide

/-- Bytes are laid out from bit 0 up: AD 12 34 is 0x3412AD. -/
theorem test_decodeTableWord_bytes : decodeTableWord 24 0x3412AD = some (.ldaAbs 0x1234) := by decide

/-- No two rows of the dispatch table share an opcode byte (R78). -/
theorem test_no_two_rows_overlap : opcodeTable.Pairwise (fun r q => r.opcode ≠ q.opcode) := by decide

/-! ### One step of each instruction -/

/-- S3b. -/
theorem test_ldaImm_negative : ran (placed 0xFFFC [0xA9, 0x80]) =
    some [0xFFFE, 0x00, 0x80, 0x00, 0x00, 0x80, 2] := by decide

/-- L1. -/
theorem test_ldaImm_keeps_v_c : ran ({ placed 0x0300 [0xA9, 0x00] with p := 0x41 }) =
    some [0x0302, 0x00, 0x00, 0x00, 0x00, 0x43, 2] := by decide

/-- E1. -/
theorem test_ldaImm_pc_wraps : ran (placed 0xFFFF [0xA9, 0x07]) =
    some [0x0001, 0x00, 0x07, 0x00, 0x00, 0x00, 2] := by decide

/-- L7. -/
theorem test_ldaZp : ran (placed 0x0300 [0xA5, 0x42]) =
    some [0x0302, 0x00, 0x00, 0x00, 0x00, 0x02, 3] := by decide

/-- A1. -/
theorem test_ldaZpX_wraps : ran ({ poke (placed 0x0300 [0xB5, 0xF0]) 0x0010 0x7F with x := 0x20 }) =
    some [0x0302, 0x00, 0x7F, 0x20, 0x00, 0x00, 4] := by decide

/-- A9. -/
theorem test_ldaAbs_high_first : ran (poke (poke (placed 0x0300 [0xAD, 0x12, 0x34]) 0x1234 0x11) 0x3412 0x22) =
    some [0x0303, 0x00, 0x11, 0x00, 0x00, 0x00, 4] := by decide

/-- S4. -/
theorem test_ldaAbs_source : ran (poke (placed 0xFFFC [0xAD, 0xAA, 0xAA]) 0xAAAA 0xFF) =
    some [0xFFFF, 0x00, 0xFF, 0x00, 0x00, 0x80, 4] := by decide

/-- S5a. -/
theorem test_ldaAbsX_crossed : ran ({ placed 0x0300 [0xBD, 0x20, 0xFF] with x := 0x01 }) =
    some [0x0303, 0x00, 0x00, 0x01, 0x00, 0x02, 5] := by decide

/-- S5b. -/
theorem test_ldaAbsX_not_crossed : ran ({ placed 0x0300 [0xBD, 0x20, 0x00] with x := 0x01 }) =
    some [0x0303, 0x00, 0x00, 0x01, 0x00, 0x02, 4] := by decide

/-- A2. -/
theorem test_ldaAbsX_top_wraps : ran ({ poke (placed 0x0300 [0xBD, 0xFF, 0xFF]) 0x0000 0x99 with x := 0x01 }) =
    some [0x0303, 0x00, 0x99, 0x01, 0x00, 0x80, 5] := by decide

/-- A3. -/
theorem test_ldaAbsX_zero_index : ran (poke (placed 0x0300 [0xBD, 0x20, 0xFF]) 0x20FF 0x01) =
    some [0x0303, 0x00, 0x01, 0x00, 0x00, 0x00, 4] := by decide

/-- R166, its example. -/
theorem test_ldaAbsY_crossed : ran ({ poke (placed 0x0300 [0xB9, 0x12, 0x01]) 0x1300 0x80 with y := 0xFF }) =
    some [0x0303, 0x00, 0x80, 0x00, 0xFF, 0x80, 5] := by decide

/-- A5. -/
theorem test_ldaIndX_pointer_wraps : ran (poke (poke (poke (placed 0x0300 [0xA1, 0xFF]) 0x00FF 0x34) 0x0000 0x12) 0x1234 0x55) =
    some [0x0302, 0x00, 0x55, 0x00, 0x00, 0x00, 6] := by decide

/-- A6. -/
theorem test_ldaIndX_index_wraps : ran ({ poke (poke (poke (placed 0x0300 [0xA1, 0xFE]) 0x0001 0x00) 0x0002 0x40) 0x4000 0x66 with x := 0x03 }) =
    some [0x0302, 0x00, 0x66, 0x03, 0x00, 0x00, 6] := by decide

/-- A7. -/
theorem test_ldaIndY_pointer_wraps : ran (poke (poke (poke (placed 0x0300 [0xB1, 0xFF]) 0x00FF 0x34) 0x0000 0x12) 0x1234 0x55) =
    some [0x0302, 0x00, 0x55, 0x00, 0x00, 0x00, 5] := by decide

/-- A8. -/
theorem test_ldaIndY_top_wraps : ran ({ poke (poke (poke (placed 0x0300 [0xB1, 0x40]) 0x0040 0xF0) 0x0041 0xFF) 0x0010 0x77 with y := 0x20 }) =
    some [0x0302, 0x00, 0x77, 0x00, 0x20, 0x00, 6] := by decide

/-- L5. -/
theorem test_ldxImm : ran ({ placed 0x0300 [0xA2, 0x00] with x := 0x55 }) =
    some [0x0302, 0x00, 0x00, 0x00, 0x00, 0x02, 2] := by decide

/-- R170, its example. -/
theorem test_ldxZp : ran (poke (placed 0x0300 [0xA6, 0x80]) 0x0080 0x01) =
    some [0x0302, 0x00, 0x00, 0x01, 0x00, 0x00, 3] := by decide

/-- A10. -/
theorem test_ldxZpY_wraps : ran ({ poke (placed 0x0300 [0xB6, 0xFF]) 0x00FE 0x01 with y := 0xFF }) =
    some [0x0302, 0x00, 0x00, 0x01, 0xFF, 0x00, 4] := by decide

/-- L8. -/
theorem test_ldxAbs_own_opcode : ran (placed 0x0300 [0xAE, 0x03, 0x00]) =
    some [0x0303, 0x00, 0x00, 0xAE, 0x00, 0x80, 4] := by decide

/-- L9. -/
theorem test_ldxAbsY : ran ({ poke (placed 0x0300 [0xBE, 0x30, 0x00]) 0x3001 0x33 with y := 0x01 }) =
    some [0x0303, 0x00, 0x00, 0x33, 0x01, 0x00, 4] := by decide

/-- L6. -/
theorem test_ldyImm : ran (placed 0x0300 [0xA0, 0x80]) =
    some [0x0302, 0x00, 0x00, 0x00, 0x80, 0x80, 2] := by decide

/-- R175, its example. -/
theorem test_ldyZp : ran (poke (placed 0x0300 [0xA4, 0x00]) 0x0000 0x80) =
    some [0x0302, 0x00, 0x00, 0x00, 0x80, 0x80, 3] := by decide

/-- L11. -/
theorem test_ldyZpX_wraps : ran ({ poke (placed 0x0300 [0xB4, 0x01]) 0x0000 0x05 with x := 0xFF }) =
    some [0x0302, 0x00, 0x00, 0xFF, 0x05, 0x00, 4] := by decide

/-- R177, its example. -/
theorem test_ldyAbs : ran (poke (placed 0x0300 [0xAC, 0xC0, 0x00]) 0xC000 0x7F) =
    some [0x0303, 0x00, 0x00, 0x00, 0x7F, 0x00, 4] := by decide

/-- L10. -/
theorem test_ldyAbsX_crossed : ran ({ poke (placed 0x0300 [0xBC, 0x10, 0x80]) 0x1100 0xAA with x := 0x80 }) =
    some [0x0303, 0x00, 0x00, 0x80, 0xAA, 0x80, 5] := by decide

/-- W1. -/
theorem test_staZp_no_flag : ran ({ poke (placed 0x0300 [0x85, 0x10]) 0x0010 0x77 with p := 0xFF }) =
    some [0x0302, 0x00, 0x00, 0x00, 0x00, 0xFF, 3] := by decide

/-- W1: the byte stored. -/
theorem test_staZp_no_flag_byte : ranByte 0x0010 ({ poke (placed 0x0300 [0x85, 0x10]) 0x0010 0x77 with p := 0xFF }) = some 0x00 := by decide

/-- W2. -/
theorem test_staZpX_wraps : ran ({ placed 0x0300 [0x95, 0xF8] with a := 0x01, x := 0x10 }) =
    some [0x0302, 0x00, 0x01, 0x10, 0x00, 0x00, 4] := by decide

/-- W2: the byte stored. -/
theorem test_staZpX_wraps_byte : ranByte 0x0008 ({ placed 0x0300 [0x95, 0xF8] with a := 0x01, x := 0x10 }) = some 0x01 := by decide

/-- S6. -/
theorem test_staAbs : ran ({ placed 0x0300 [0x8D, 0x12, 0x34] with a := 0x9C, p := 0x41 }) =
    some [0x0303, 0x00, 0x9C, 0x00, 0x00, 0x41, 4] := by decide

/-- S6: the byte stored. -/
theorem test_staAbs_byte : ranByte 0x1234 ({ placed 0x0300 [0x8D, 0x12, 0x34] with a := 0x9C, p := 0x41 }) = some 0x9C := by decide

/-- A12. -/
theorem test_staAbsX_always_pays : ran ({ placed 0x0300 [0x9D, 0x20, 0x00] with a := 0x05 }) =
    some [0x0303, 0x00, 0x05, 0x00, 0x00, 0x00, 5] := by decide

/-- A12: the byte stored. -/
theorem test_staAbsX_always_pays_byte : ranByte 0x2000 ({ placed 0x0300 [0x9D, 0x20, 0x00] with a := 0x05 }) = some 0x05 := by decide

/-- A11. -/
theorem test_staAbsY_top_wraps : ran ({ placed 0x0300 [0x99, 0xFF, 0xF0] with a := 0x09, y := 0x20 }) =
    some [0x0303, 0x00, 0x09, 0x00, 0x20, 0x00, 5] := by decide

/-- A11: the byte stored. -/
theorem test_staAbsY_top_wraps_byte : ranByte 0x0010 ({ placed 0x0300 [0x99, 0xFF, 0xF0] with a := 0x09, y := 0x20 }) = some 0x09 := by decide

/-- W3. -/
theorem test_staIndX : ran ({ poke (poke (placed 0x0300 [0x81, 0x7E]) 0x0080 0xFF) 0x0081 0x20 with a := 0x7E, x := 0x02 }) =
    some [0x0302, 0x00, 0x7E, 0x02, 0x00, 0x00, 6] := by decide

/-- W3: the byte stored. -/
theorem test_staIndX_byte : ranByte 0x20FF ({ poke (poke (placed 0x0300 [0x81, 0x7E]) 0x0080 0xFF) 0x0081 0x20 with a := 0x7E, x := 0x02 }) = some 0x7E := by decide

/-- A13. -/
theorem test_staIndY_always_pays : ran ({ poke (poke (placed 0x0300 [0x91, 0x80]) 0x0080 0x00) 0x0081 0x40 with a := 0x05 }) =
    some [0x0302, 0x00, 0x05, 0x00, 0x00, 0x00, 6] := by decide

/-- A13: the byte stored. -/
theorem test_staIndY_always_pays_byte : ranByte 0x4000 ({ poke (poke (placed 0x0300 [0x91, 0x80]) 0x0080 0x00) 0x0081 0x40 with a := 0x05 }) = some 0x05 := by decide

/-- W8. -/
theorem test_stxZp : ran ({ placed 0x0300 [0x86, 0x70] with x := 0x05 }) =
    some [0x0302, 0x00, 0x00, 0x05, 0x00, 0x00, 3] := by decide

/-- W8: the byte stored. -/
theorem test_stxZp_byte : ranByte 0x0070 ({ placed 0x0300 [0x86, 0x70] with x := 0x05 }) = some 0x05 := by decide

/-- W4. -/
theorem test_stxZpY_wraps : ran ({ placed 0x0300 [0x96, 0xF0] with x := 0x05, y := 0x80 }) =
    some [0x0302, 0x00, 0x00, 0x05, 0x80, 0x00, 4] := by decide

/-- W4: the byte stored. -/
theorem test_stxZpY_wraps_byte : ranByte 0x0070 ({ placed 0x0300 [0x96, 0xF0] with x := 0x05, y := 0x80 }) = some 0x05 := by decide

/-- W7. -/
theorem test_stxAbs : ran ({ placed 0x0300 [0x8E, 0x02, 0x00] with x := 0xAB }) =
    some [0x0303, 0x00, 0x00, 0xAB, 0x00, 0x00, 4] := by decide

/-- W7: the byte stored. -/
theorem test_stxAbs_byte : ranByte 0x0200 ({ placed 0x0300 [0x8E, 0x02, 0x00] with x := 0xAB }) = some 0xAB := by decide

/-- W9. -/
theorem test_styZp_no_flag : ran (poke (placed 0x0300 [0x84, 0x33]) 0x0033 0x77) =
    some [0x0302, 0x00, 0x00, 0x00, 0x00, 0x00, 3] := by decide

/-- W9: the byte stored. -/
theorem test_styZp_no_flag_byte : ranByte 0x0033 (poke (placed 0x0300 [0x84, 0x33]) 0x0033 0x77) = some 0x00 := by decide

/-- W5. -/
theorem test_styZpX_wraps : ran ({ placed 0x0300 [0x94, 0xFF] with x := 0x01, y := 0x44 }) =
    some [0x0302, 0x00, 0x00, 0x01, 0x44, 0x00, 4] := by decide

/-- W5: the byte stored. -/
theorem test_styZpX_wraps_byte : ranByte 0x0000 ({ placed 0x0300 [0x94, 0xFF] with x := 0x01, y := 0x44 }) = some 0x44 := by decide

/-- W6. -/
theorem test_styAbs_stack_page : ran ({ placed 0x0300 [0x8C, 0x01, 0xFF] with y := 0x12 }) =
    some [0x0303, 0x00, 0x00, 0x00, 0x12, 0x00, 4] := by decide

/-- W6: the byte stored. -/
theorem test_styAbs_stack_page_byte : ranByte 0x01FF ({ placed 0x0300 [0x8C, 0x01, 0xFF] with y := 0x12 }) = some 0x12 := by decide

/-- T1. -/
theorem test_tax : ran ({ placed 0x0300 [0xAA] with a := 0x80 }) =
    some [0x0301, 0x00, 0x80, 0x80, 0x00, 0x80, 2] := by decide

/-- T2. -/
theorem test_tax_zero_keeps_v_c : ran ({ placed 0x0300 [0xAA] with p := 0xC1 }) =
    some [0x0301, 0x00, 0x00, 0x00, 0x00, 0x43, 2] := by decide

/-- T3. -/
theorem test_tay : ran ({ placed 0x0300 [0xA8] with y := 0x55 }) =
    some [0x0301, 0x00, 0x00, 0x00, 0x00, 0x02, 2] := by decide

/-- T4. -/
theorem test_txa : ran ({ placed 0x0300 [0x8A] with x := 0x7F }) =
    some [0x0301, 0x00, 0x7F, 0x7F, 0x00, 0x00, 2] := by decide

/-- T5. -/
theorem test_tya : ran ({ placed 0x0300 [0x98] with y := 0xFF }) =
    some [0x0301, 0x00, 0xFF, 0x00, 0xFF, 0x80, 2] := by decide

/-- T6. -/
theorem test_tsx_zero : ran ({ placed 0x0300 [0xBA] with p := 0x80 }) =
    some [0x0301, 0x00, 0x00, 0x00, 0x00, 0x02, 2] := by decide

/-- T7. -/
theorem test_tsx : ran ({ placed 0x0300 [0xBA] with sp := 0xFD }) =
    some [0x0301, 0xFD, 0x00, 0xFD, 0x00, 0x80, 2] := by decide

/-- T8. -/
theorem test_txs_no_flag : ran ({ placed 0x0300 [0x9A] with sp := 0x12 }) =
    some [0x0301, 0x00, 0x00, 0x00, 0x00, 0x00, 2] := by decide

/-- T9. -/
theorem test_txs : ran ({ placed 0x0300 [0x9A] with x := 0xFF }) =
    some [0x0301, 0xFF, 0x00, 0xFF, 0x00, 0x00, 2] := by decide

/-- K1. -/
theorem test_pha_sp_wraps : ran ({ placed 0x0300 [0x48] with a := 0x42 }) =
    some [0x0301, 0xFF, 0x42, 0x00, 0x00, 0x00, 3] := by decide

/-- K1: the byte stored. -/
theorem test_pha_sp_wraps_byte : ranByte 0x0100 ({ placed 0x0300 [0x48] with a := 0x42 }) = some 0x42 := by decide

/-- K5. -/
theorem test_php_as_stored : ran ({ placed 0x0300 [0x08] with sp := 0xFD, p := 0x30 }) =
    some [0x0301, 0xFC, 0x00, 0x00, 0x00, 0x30, 3] := by decide

/-- K5: the byte stored. -/
theorem test_php_as_stored_byte : ranByte 0x01FD ({ placed 0x0300 [0x08] with sp := 0xFD, p := 0x30 }) = some 0x30 := by decide

/-- K3. -/
theorem test_pla_sp_wraps : ran ({ poke (placed 0x0300 [0x68]) 0x0100 0x80 with sp := 0xFF }) =
    some [0x0301, 0x00, 0x80, 0x00, 0x00, 0x80, 4] := by decide

/-- K4. -/
theorem test_pla_zero : ran ({ placed 0x0300 [0x68] with sp := 0xFE, a := 0x11 }) =
    some [0x0301, 0xFF, 0x00, 0x00, 0x00, 0x02, 4] := by decide

/-- K7. -/
theorem test_plp_all_bits : ran ({ poke (placed 0x0300 [0x28]) 0x01FD 0xFF with sp := 0xFC }) =
    some [0x0301, 0xFD, 0x00, 0x00, 0x00, 0xFF, 4] := by decide

/-- K8. -/
theorem test_plp_no_zero_update : ran ({ placed 0x0300 [0x28] with sp := 0xFC, p := 0xC3 }) =
    some [0x0301, 0xFD, 0x00, 0x00, 0x00, 0x00, 4] := by decide

/-- N1. -/
theorem test_nop : ran ({ placed 0x0300 [0xEA] with a := 0x01, p := 0xFF }) =
    some [0x0301, 0x00, 0x01, 0x00, 0x00, 0xFF, 2] := by decide

/-- N2. -/
theorem test_nop_pc_wraps : ran (placed 0xFFFF [0xEA]) =
    some [0x0000, 0x00, 0x00, 0x00, 0x00, 0x00, 2] := by decide

/-- U1. -/
theorem test_unknown_brk : ran ({ placed 0x0300 [0x00] with sp := 0xFF }) =
    some [0x0301, 0xFF, 0x00, 0x00, 0x00, 0x00, 1] := by decide

/-- U2: the event holds the byte and its address. -/
theorem test_unknown_event : view State.diag (step (placed 0xFFFF [0xFF])) = some [⟨0xFF, 0xFFFF⟩] := by decide

/-- A5, access order check. -/
theorem test_access_order :
    accesses (.ldaIndX 0xFF) (poke (poke (placed 0x0300 [0xA1, 0xFF]) 0x00FF 0x34) 0x0000 0x12) =
      [.fetch 0x0300, .fetch 0x0301, .read 0x00FF, .read 0x0000, .read 0x1234] := by decide

/-! ### Reset, execute and the host -/

/-- S1: reset from any state keeps memory. -/
theorem test_reset :
    regs (poke { placed 0x1234 [] with sp := 0x7F, a := 0x11, x := 0x22, y := 0x33, p := 0xFF } 0x0200 0x5A).applyReset =
      [0xFFFC, 0, 0, 0, 0, 0, 0] := by decide

/-- Z2: 0x34 at 0xFFFC is an opcode, not the low byte of a vector. -/
theorem test_no_vector : executed 1 (placed 0xFFFC [0x34, 0x12]) = some (0, [0xFFFD, 0, 0, 0, 0, 0, 1]) := by decide

/-- S2a. -/
theorem test_execute_exact : executed 2 (placed 0xFFFC [0xA9, 0x42]) = some (0, [0xFFFE, 0, 0x42, 0, 0, 0, 2]) := by decide

/-- S2b: the whole instruction runs. -/
theorem test_execute_overrun : executed 1 (placed 0xFFFC [0xA9, 0x42]) = some (1, [0xFFFE, 0, 0x42, 0, 0, 0, 2]) := by decide

/-- E3. -/
theorem test_execute_negative : executed (-5) (placed 0x0300 [0xEA]) = some (5, [0x0300, 0, 0, 0, 0, 0, 0]) := by decide

/-- E6. -/
theorem test_execute_three_nops :
    executed 5 (placed 0x0300 [0xEA, 0xEA, 0xEA, 0xEA, 0xEA]) = some (1, [0x0303, 0, 0, 0, 0, 0, 6]) := by decide

/-- S8: an unknown opcode does not end the loop. -/
theorem test_execute_after_unknown :
    executed 3 (placed 0xFFFC [0x02, 0xA9, 0x07]) = some (0, [0xFFFF, 0, 0x07, 0, 0, 0, 3]) := by decide

/-- E7: before the first reset execute is refused, whatever the registers hold. -/
theorem test_execute_before_reset (pc : Word) (sp a x y p : Byte) :
    execute 2 (State.created pc sp a x y p) = .refused .beforeReset := rfl

/-- 70_reset_and_hazards.md R254: load, reset, execute, read A. -/
theorem test_boot :
    view (fun r => r.2)
      (hostRun [.writeMemory 0xFFFC 0xA9, .writeMemory 0xFFFD 0x80, .reset, .execute 2, .readRegister .a]
        (State.created 0x1234 0x7F 0x11 0x22 0x33 0xFF)) =
      some [.done, .done, .done, .overrun 0, .byte 0x80] := by decide

/-- R221: a port access at 65536 is the fault with that address. -/
theorem test_port_fault : hostCall (.readMemory 65536) State.reset = .fault (.memoryRange 65536) := rfl

/-- The host's placing of a table word: the next step runs it. -/
theorem test_withFetchWord : ran (State.reset.withFetchWord 8 0xA9) = some [0xFFFE, 0, 0, 0, 0, 0x02, 2] := by decide

/-- S7, its two stack steps in one execute: PHA then PLA. -/
theorem test_pha_pla : executed 7 { placed 0x0300 [0x48, 0x68] with a := 0x42 } =
    some (0, [0x0302, 0, 0x42, 0, 0, 0, 7]) := by decide

/-! ### Witnesses: for each statement with hypotheses, a state and operands that meet them -/

/-- EncodeThenDecodeGivesTheInstruction: an assigned and an unassigned opcode. -/
theorem witness_EncodeThenDecodeGivesTheInstruction :
    (Instr.staIndY 0xFF).wellFormed = true ∧ (Instr.unknown 0xFF).wellFormed = true := by decide

/-- DecodeThenEncodeGivesTheBytes: bytes that decode, with one left over. -/
theorem witness_DecodeThenEncodeGivesTheBytes :
    decode [0xBD, 0xFF, 0xFF, 0xEA] = .ok (.ldaAbsX 0xFFFF, [0xEA]) := by decide

/-- OpcodeByteFixesTheLength: too few bytes and just enough, for three, two and one. -/
theorem witness_OpcodeByteFixesTheLength :
    operandCount 0x8C = 2 ∧ operandCount 0xB1 = 1 ∧ operandCount 0xFF = 0 ∧
      decode [0x8C, 0x01] = .error (.missingOperand 0x8C) ∧ decode [0x8C, 0x01, 0xFF] = .ok (.styAbs 0x01FF, []) := by
  decide

/-- UnlistedBytesAreUnknown: a listed byte and one that is not. -/
theorem witness_UnlistedBytesAreUnknown : (0x00 : Byte).toNat ∈ unknownBytes ∧ (0xEA : Byte).toNat ∉ unknownBytes := by
  decide

/-- EqualBytesMakeEqualMemories: a memory in canonical form, at both ends of the address space. -/
theorem witness_EqualBytesMakeEqualMemories :
    Memory.wf [(0, 0x01), (65535, 0xFF)] ∧ ∀ k < 65536, Memory.read [(0, 0x01), (65535, 0xFF)] k =
      Memory.read [(0, 0x01), (65535, 0xFF)] k := ⟨by decide, fun _ _ => rfl⟩

/-- EqualBytesMakeEqualMemories: what the form shuts out, a cell holding 0x00 and cells out of order. -/
theorem witness_Memory_wf_refuses : ¬ Memory.wf [(1, 0x00)] ∧ ¬ Memory.wf [(2, 0x01), (1, 0x01)] ∧
    ¬ Memory.wf [(65536, 0x01)] := by decide

/-- PortFaultsOutsideTheAddressSpace: the last address inside and the first outside. -/
theorem witness_PortFaultsOutsideTheAddressSpace :
    State.reset.portRead 65535 = .next 0x00 ∧ State.reset.portRead 65536 = .fault (.memoryRange 65536) := ⟨rfl, rfl⟩

/-- AbsoluteOperandHighByteFirst: an opcode of format A. -/
theorem witness_AbsoluteOperandHighByteFirst : dispatchTable 0xAD = some (.wordOperand .ldaAbs) := rfl

/-- CrossingTestIsTheCarry: the last sum that does not carry, the first that does, and the index 0. -/
theorem witness_CrossingTestIsTheCarry :
    ¬ Carries 0x20FE 0x01 ∧ Carries 0x20FF 0x01 ∧ Carries 0xFFFF 0x01 ∧ ¬ Carries 0x20FF 0x00 := by decide

/-- ZeroAndNegativeFollowTheResult: a load, PLP and an instruction that leaves P. -/
theorem witness_ZeroAndNegativeFollowTheResult :
    (∃ t, exec .tax State.reset = .next t ∧ znRegister .tax = some .x) ∧
      (∃ t, exec .plp State.reset = .next t ∧ znRegister .plp = none) ∧
      ∃ t, exec .txs State.reset = .next t ∧ znRegister .txs = none := ⟨⟨_, rfl, rfl⟩, ⟨_, rfl, rfl⟩, ⟨_, rfl, rfl⟩⟩

/-- PushThenPullRestores: PHA and PHP at SP 0, with nothing between the push and the pull. -/
theorem witness_PushThenPullRestores :
    (∃ t u : State, u.sp = t.sp ∧ u.memRead (stackAddress 0x00) = t.memRead (stackAddress 0x00) ∧
      exec .pha State.reset = .next t) ∧
    ∃ t u : State, u.sp = t.sp ∧ u.memRead (stackAddress 0x00) = t.memRead (stackAddress 0x00) ∧
      exec .php State.reset = .next t := ⟨⟨_, _, rfl, rfl, rfl⟩, ⟨_, _, rfl, rfl, rfl⟩⟩

/-- LdaImmediateFromItsBytes. -/
theorem witness_LdaImmediateFromItsBytes :
    (placed 0xFFFF [0xA9, 0x07]).defined = true ∧
      (placed 0xFFFF [0xA9, 0x07]).memRead (placed 0xFFFF [0xA9, 0x07]).pc = 0xA9 := by decide

/-- LdaAbsoluteFromItsBytes. -/
theorem witness_LdaAbsoluteFromItsBytes :
    (placed 0x0300 [0xAD, 0x12, 0x34]).defined = true ∧ (placed 0x0300 [0xAD, 0x12, 0x34]).memRead 0x0300 = 0xAD ∧
      (0x1234 : Word).toNat = ((placed 0x0300 [0xAD, 0x12, 0x34]).memRead 0x0301).toNat * 256 +
        ((placed 0x0300 [0xAD, 0x12, 0x34]).memRead 0x0302).toNat := by decide

/-- StepRunsTheDecodedInstruction: across the top of the address space. -/
theorem witness_StepRunsTheDecodedInstruction :
    (placed 0xFFFE [0x8D, 0x00, 0x01]).defined = true ∧
      decode [(placed 0xFFFE [0x8D, 0x00, 0x01]).memRead 0xFFFE, (placed 0xFFFE [0x8D, 0x00, 0x01]).memRead 0xFFFF,
        (placed 0xFFFE [0x8D, 0x00, 0x01]).memRead 0x0000] = .ok (.staAbs 0x0001, []) := by decide

/-- EveryStepCompletes: a state that has been reset, and one whose step is refused. -/
theorem witness_EveryStepCompletes :
    State.reset.defined = true ∧ step (State.created 0 0 0 0 0 0) = .refused .beforeReset := ⟨rfl, rfl⟩

/-- StepAdvancesPcByTheLength, StepCostsOneToSixCycles, RegistersAreWrittenOnlyByTheirWriters: an instruction that gives a
next state. -/
theorem witness_StepAdvancesPcByTheLength : ∃ t, exec (.ldaAbs 0x1234) State.reset = .next t := ⟨_, rfl⟩

theorem witness_StepCostsOneToSixCycles :
    (∃ t, exec (.unknown 0x00) State.reset = .next t) ∧ ∃ t, exec (.ldaIndX 0x20) State.reset = .next t :=
  ⟨⟨_, rfl⟩, ⟨_, rfl⟩⟩

theorem witness_RegistersAreWrittenOnlyByTheirWriters :
    (∃ t, exec .nop State.reset = .next t ∧ znRegister .nop = none ∧ Instr.nop ∉ [Instr.pha, .php, .pla, .plp, .txs]) ∧
      ∃ t, exec .tay State.reset = .next t ∧ znRegister .tay ≠ some .a := ⟨⟨_, rfl, rfl, by decide⟩, ⟨_, rfl, by decide⟩⟩

theorem witness_OnlyStoresAndPushesWriteMemory :
    writesMemory .pla = false ∧ ∃ t, exec .pla State.reset = .next t := ⟨rfl, _, rfl⟩

/-- MemoryChangesAreTheListedWrites: an address the list writes and one it does not. -/
theorem witness_MemoryChangesAreTheListedWrites :
    (∃ t, exec (.staZp 0x10) State.reset = .next t) ∧
      Access.write 0x0010 0x00 ∈ accesses (.staZp 0x10) State.reset ∧
      ∀ v, Access.write 0x0011 v ∉ accesses (.staZp 0x10) State.reset := by
  refine ⟨⟨_, rfl⟩, by decide, fun v h => ?_⟩
  simp [accesses, fetches, dataAccesses, zext16, Instr.length] at h

theorem witness_DiagGrowsOnlyByUnknownOpcodes :
    (∃ t, exec (.unknown 0x02) State.reset = .next t) ∧ ∃ t, exec .nop State.reset = .next t ∧ ∀ op, Instr.nop ≠ .unknown op :=
  ⟨⟨_, rfl⟩, ⟨_, rfl, fun _ h => by cases h⟩⟩

theorem witness_StatusNeverSteersExecution : Instr.plp ≠ .php ∧ ∃ t, exec .plp State.reset = .next t :=
  ⟨by decide, _, rfl⟩

theorem witness_CyclesAndDiagAreNeverRead :
    (∃ t, exec .pla State.reset = .next t) ∧ ∃ t, exec (.unknown 0x02) State.reset = .next t := ⟨⟨_, rfl⟩, ⟨_, rfl⟩⟩

/-- StepDependsOnlyOnItsAccesses: two memories that differ at an address the instruction at PC does not reach. -/
theorem witness_StepDependsOnlyOnItsAccesses :
    (placed 0x0300 [0xEA]).defined = true ∧ (placed 0x0300 [0xEA]).mem ≠ [(0x0300, 0xEA), (0x0301, 0x01)] ∧
      ∀ acc ∈ accesses (placed 0x0300 [0xEA]).fetchInstr (placed 0x0300 [0xEA]),
        State.memRead { placed 0x0300 [0xEA] with mem := [(0x0300, 0xEA), (0x0301, 0x01)] } acc.addr =
          (placed 0x0300 [0xEA]).memRead acc.addr := by decide

/-- StoredByteIsSeenByTheNextFetch: STA $0001 at 0xFFFE, as in program P5. -/
theorem witness_StoredByteIsSeenByTheNextFetch :
    ∃ t, exec (.staAbs 0x0001) { placed 0xFFFE [0x8D, 0x00, 0x01] with a := 0xEA } = .next t ∧
      Access.write 0x0001 0xEA ∈ accesses (.staAbs 0x0001) { placed 0xFFFE [0x8D, 0x00, 0x01] with a := 0xEA } ∧
      t.pc = 0x0001 ∧ t.defined = true := ⟨_, rfl, by decide, by decide, by decide⟩

/-- InvariantKeptByEveryStep, from reset: the byte 0x00 at 0xFFFC is an unknown opcode. -/
theorem witness_InvariantKeptByEveryStep : Inv State.reset ∧ ∃ t, step State.reset = .next t := ⟨by decide, _, rfl⟩

theorem witness_ResetIsIdempotent : State.reset.diag = (placed 0x0300 [0xEA]).diag := by decide

/-- ExecuteIsTheLoopOfSteps, ExecuteOneIsASingleStep: a state that has been reset. -/
theorem witness_ExecuteIsTheLoopOfSteps : (placed 0xFFFC [0xA9, 0x42]).defined = true := by decide

theorem witness_ExecuteOneIsASingleStep : State.reset.defined = true := by decide

/-- OverrunIsAtMostFive: E5, the largest overrun, and a budget below zero. -/
theorem witness_OverrunIsAtMostFive :
    view Prod.fst (execute 1 (placed 0x0300 [0xA1, 0x20])) = some 5 ∧
      view Prod.fst (execute (-3) (placed 0x0300 [0xA1, 0x20])) = some 3 := by decide

/-- NonPositiveBudgetRunsNothing: E2 and E3. -/
theorem witness_NonPositiveBudgetRunsNothing : State.reset.defined = true ∧ (0 : Int) ≤ 0 ∧ (-5 : Int) ≤ 0 := by decide

/-- BeforeResetOnlyResetAndMemory: any created core, and both ends of the address space. -/
theorem witness_BeforeResetOnlyResetAndMemory :
    (State.created 0x1234 0 0 0 0 0).defined = false ∧ 0 < 65536 ∧ 65535 < 65536 := by decide

/-- HostRequestsDoOnlyTheirPart: each request answers. -/
theorem witness_HostRequestsDoOnlyTheirPart :
    (∃ r, hostCall .reset State.reset = .next r) ∧ (∃ r, hostCall (.execute 0) State.reset = .next r) ∧
      (∃ r, hostCall (.readRegister .pc) State.reset = .next r) ∧
      (∃ r, hostCall (.readMemory 65535) State.reset = .next r) ∧
      (∃ r, hostCall (.writeMemory 65535 0x01) State.reset = .next r) ∧ ∃ r, hostCall .readDiag State.reset = .next r :=
  ⟨⟨_, rfl⟩, ⟨_, rfl⟩, ⟨_, rfl⟩, ⟨_, rfl⟩, ⟨_, rfl⟩, ⟨_, rfl⟩⟩

/-- HostSessionsKeepMemoryCanonical. -/
theorem witness_HostSessionsKeepMemoryCanonical :
    State.reset.mem.wf ∧ ∃ r, hostRun [.writeMemory 0xFFFC 0xEA, .reset, .execute 1] State.reset = .next r :=
  ⟨by decide, _, rfl⟩

/-- HostWriteIsSeenByTheNextFetch: a write at PC. -/
theorem witness_HostWriteIsSeenByTheNextFetch : State.reset.pc = (0xFFFC : Word) := rfl

end Sys2Proof.Tests
end

section
/-! SUPPORT. What `load` and the advance of PC leave of each field, and the frame of an instruction read off its shape. -/

namespace Sys2Proof.Machine

open Sys2Proof.Safety

/-! ### The fields after a load -/

section LoadFields

variable (r : Reg) (v : Byte) (s : State)

@[simp] theorem load_defined : (load r v s).defined = s.defined := by simp [load]
@[simp] theorem load_sp : (load r v s).sp = s.sp := by simp [load]
@[simp] theorem load_p : (load r v s).p = Flags.setZN s.p v := by simp [load]
@[simp] theorem load_mem : (load r v s).mem = s.mem := by simp [load]
@[simp] theorem load_diag : (load r v s).diag = s.diag := by simp [load]

theorem load_reg_other {q : Reg} (h : q ≠ r) : (load r v s).reg q = s.reg q := by
  rw [load, State.setZN_reg, State.reg_setReg_other s r q v h]

@[simp] theorem State.advanced_reg (n : Word) (c : Nat) (q : Reg) : (s.advanced n c).reg q = s.reg q := by
  cases q <;> rfl

end LoadFields

/-! ### The frame of an instruction -/

section Frame

variable {s t : State} {i : Instr}

/-- No instruction undoes or makes a reset (10_state.md R37). -/
theorem Shape.defined_eq (h : Shape s i t) : t.defined = s.defined := by
  cases h <;> simp

/-- An instruction changes no general register but the one it loads (10_state.md R21..R23). -/
theorem Shape.reg_eq (h : Shape s i t) {q : Reg} (hq : znRegister i ≠ some q) : t.reg q = s.reg q := by
  cases h with
  | load _ r v c hz =>
    have hqr : q ≠ r := fun e => hq (e ▸ hz)
    rw [load_reg_other r v _ hqr, State.advanced_reg]
  | pla =>
    have hqa : q ≠ .a := fun e => hq (e ▸ rfl)
    rw [load_reg_other .a _ _ hqa, State.setSp_reg, State.advanced_reg]
  | _ => simp

/-- Only the stack instructions and TXS write SP (10_state.md R24). -/
theorem Shape.sp_eq (h : Shape s i t) (hi : i ∉ [Instr.pha, .php, .pla, .plp, .txs]) : t.sp = s.sp := by
  cases h with
  | load | store | nop | unknown => simp
  | txs | pha | php | pla | plp => simp at hi

/-- Only PLP and the instructions that set Z and N write P (10_state.md R27, R35). -/
theorem Shape.p_eq (h : Shape s i t) (hz : znRegister i = none) (hi : i ≠ .plp) : t.p = s.p := by
  cases h with
  | load _ r v c hr => simp [hr] at hz
  | pla => simp [znRegister] at hz
  | plp => exact absurd rfl hi
  | _ => simp

/-- An instruction keeps the canonical form: it leaves memory alone or writes through the port. -/
theorem Shape.wf_mem (h : Shape s i t) (hm : s.mem.wf) : t.mem.wf := by
  cases h with
  | store _ ea v => exact State.wf_memWrite hm ea v
  | pha => exact State.wf_memWrite hm (stackAddress s.sp) s.a
  | php => exact State.wf_memWrite hm (stackAddress s.sp) s.p
  | _ => simpa using hm

theorem Shape.diag_eq (h : Shape s i t) (hi : ∀ op, i ≠ .unknown op) : t.diag = s.diag := by
  cases h with
  | unknown op => exact absurd rfl (hi op)
  | _ => simp

theorem Shape.diag_unknown {op : Byte} (h : Shape s (.unknown op) t) : t.diag = s.diag ++ [⟨op, s.pc⟩] := by
  cases h with
  | load _ _ _ _ _ _ _ hu | store _ _ _ _ _ _ _ hu => exact absurd rfl (hu op)
  | unknown => rfl

/-- Every event after a well-formed instruction names an unknown opcode, if every event before it does: the one event
it can add carries its own opcode byte, which a well-formed unknown instruction has outside the table (R80). -/
theorem Shape.events_unknown (h : Shape s i t) (hi : i.wellFormed = true)
    (hd : ∀ e ∈ s.diag, isUnknownOpcode e.opcode = true) : ∀ e ∈ t.diag, isUnknownOpcode e.opcode = true := by
  by_cases hu : ∃ op, i = .unknown op
  · obtain ⟨op, rfl⟩ := hu
    intro e he
    rw [h.diag_unknown, List.mem_append, List.mem_singleton] at he
    rcases he with he | rfl
    · exact hd e he
    · exact hi
  · rwa [h.diag_eq fun op e => hu ⟨op, e⟩]

end Frame

/-! ### The statements about what an instruction writes -/

/-- Settles O44: the step ran the fetched instruction, which the decoder makes well formed; its shape keeps each part of
the invariant. -/
theorem invariantKeptByEveryStep : Obligations.InvariantKeptByEveryStep := by
  intro s t ⟨hdef, hmem, hdiag⟩ hstep
  have h : Shape s s.fetchInstr t := exec_shape _ s t (step_cases hstep).2
  exact ⟨h.defined_eq.trans hdef, h.wf_mem hmem, h.events_unknown (wellFormed_fetchInstr s) hdiag⟩

/-- Settles O36, from the frame of an instruction's shape. -/
theorem registersAreWrittenOnlyByTheirWriters : Obligations.RegistersAreWrittenOnlyByTheirWriters := by
  intro i s t hexec
  have h := exec_shape i s t hexec
  exact ⟨fun _ => h.reg_eq, h.sp_eq, h.p_eq, h.defined_eq⟩

/-- Settles O38, from the frame of an instruction's shape. -/
theorem diagGrowsOnlyByUnknownOpcodes : Obligations.DiagGrowsOnlyByUnknownOpcodes := by
  intro i s t hexec
  have h := exec_shape i s t hexec
  exact ⟨fun op hi => (hi ▸ h).diag_unknown, h.diag_eq⟩

end Sys2Proof.Machine
end

section
/-! SUPPORT. P, `cycles` and `diag` steer nothing: each instruction maps each of the three by itself, and the rest of its
next state does not depend on them. PHP alone reads P. -/

namespace Sys2Proof.Machine

/-- The state with other values in P, `cycles` and `diag`. -/
def State.withUnread (s : State) (p : Byte) (n : Nat) (d : List UnknownInstruction) : State :=
  { s with p := p, cycles := n, diag := d }

/-- What instruction `i` does in `s` whatever P, `cycles` and `diag` hold: `b` fixes the rest of the next state, P becomes
`f` of itself, `c` cycles are charged and the events `es` are appended. For PHP, which stores P, P is as in `s`. -/
def IgnoresUnread (i : Instr) (s : State) : Prop :=
  ∃ (b : State) (f : Byte → Byte) (c : Nat) (es : List UnknownInstruction),
    ∀ p n d, (i = .php → p = s.p) → exec i (s.withUnread p n d) = .next (b.withUnread (f p) (n + c) (d ++ es))

section Families

variable {i : Instr} {s : State}

/-- The form of `IgnoresUnread` for an instruction that records no event. -/
theorem IgnoresUnread.of_silent (b : State) (f : Byte → Byte) (c : Nat)
    (h : ∀ p n d, (i = .php → p = s.p) → exec i (s.withUnread p n d) = .next (b.withUnread (f p) (n + c) d)) :
    IgnoresUnread i s :=
  ⟨b, f, c, [], fun p n d hp => by rw [List.append_nil]; exact h p n d hp⟩

/-- A load or transfer, if the value it loads and the cycles it charges depend on none of the three. -/
theorem IgnoresUnread.of_load {r : Reg} {v : State → Byte} {len : Word} {c : State → Nat}
    (h : ∀ u, exec i u = .next (load r (v u) (u.advanced len (c u))))
    (hv : ∀ p n d, v (s.withUnread p n d) = v s := by intros; rfl)
    (hc : ∀ p n d, c (s.withUnread p n d) = c s := by intros; rfl) : IgnoresUnread i s := by
  refine .of_silent (load r (v s) (s.advanced len (c s))) (Flags.setZN · (v s)) (c s) fun p n d _ => ?_
  rw [h, hv, hc]
  cases r <;> rfl

/-- A store, if the byte it writes and the address it writes to depend on none of the three. -/
theorem IgnoresUnread.of_store {ea : State → Word} {v : State → Byte} {len : Word} {c : Nat}
    (h : ∀ u, exec i u = .next ((u.advanced len c).memWrite (ea u) (v u)))
    (hea : ∀ p n d, ea (s.withUnread p n d) = ea s := by intros; rfl)
    (hv : ∀ p n d, v (s.withUnread p n d) = v s := by intros; rfl) : IgnoresUnread i s := by
  refine .of_silent ((s.advanced len c).memWrite (ea s) (v s)) id c fun p n d _ => ?_
  rw [h, hea, hv]
  rfl

end Families

/-- No instruction reads `cycles` or `diag`, and none but PHP reads P. -/
theorem exec_ignoresUnread (i : Instr) (s : State) : IgnoresUnread i s := by
  cases i with
  | ldaImm b => exact .of_load (exec_ldaImm · b)
  | ldaZp z => exact .of_load (exec_ldaZp · z)
  | ldaZpX z => exact .of_load (exec_ldaZpX · z)
  | ldaAbs w => exact .of_load (exec_ldaAbs · w)
  | ldaAbsX w => exact .of_load (exec_ldaAbsX · w)
  | ldaAbsY w => exact .of_load (exec_ldaAbsY · w)
  | ldaIndX q => exact .of_load (exec_ldaIndX · q)
  | ldaIndY q => exact .of_load (exec_ldaIndY · q)
  | ldxImm b => exact .of_load (exec_ldxImm · b)
  | ldxZp z => exact .of_load (exec_ldxZp · z)
  | ldxZpY z => exact .of_load (exec_ldxZpY · z)
  | ldxAbs w => exact .of_load (exec_ldxAbs · w)
  | ldxAbsY w => exact .of_load (exec_ldxAbsY · w)
  | ldyImm b => exact .of_load (exec_ldyImm · b)
  | ldyZp z => exact .of_load (exec_ldyZp · z)
  | ldyZpX z => exact .of_load (exec_ldyZpX · z)
  | ldyAbs w => exact .of_load (exec_ldyAbs · w)
  | ldyAbsX w => exact .of_load (exec_ldyAbsX · w)
  | tax => exact .of_load exec_tax
  | tay => exact .of_load exec_tay
  | txa => exact .of_load exec_txa
  | tya => exact .of_load exec_tya
  | tsx => exact .of_load exec_tsx
  | staZp z => exact .of_store (exec_staZp · z)
  | staZpX z => exact .of_store (exec_staZpX · z)
  | staAbs w => exact .of_store (exec_staAbs · w)
  | staAbsX w => exact .of_store (exec_staAbsX · w)
  | staAbsY w => exact .of_store (exec_staAbsY · w)
  | staIndX q => exact .of_store (exec_staIndX · q)
  | staIndY q => exact .of_store (exec_staIndY · q)
  | stxZp z => exact .of_store (exec_stxZp · z)
  | stxZpY z => exact .of_store (exec_stxZpY · z)
  | stxAbs w => exact .of_store (exec_stxAbs · w)
  | styZp z => exact .of_store (exec_styZp · z)
  | styZpX z => exact .of_store (exec_styZpX · z)
  | styAbs w => exact .of_store (exec_styAbs · w)
  | txs => exact .of_silent ((s.advanced 1 2).setSp s.x) id 2 fun _ _ _ _ => exec_txs _
  | pha =>
    exact .of_silent (((s.advanced 1 3).memWrite (stackAddress s.sp) s.a).setSp (s.sp - 1)) id 3
      fun _ _ _ _ => exec_pha _
  | php =>
    refine .of_silent (((s.advanced 1 3).memWrite (stackAddress s.sp) s.p).setSp (s.sp - 1)) id 3 fun p n d hp => ?_
    obtain rfl := hp rfl
    exact exec_php _
  | pla =>
    exact .of_silent (load .a (s.memRead (stackAddress (s.sp + 1))) ((s.advanced 1 4).setSp (s.sp + 1)))
      (Flags.setZN · (s.memRead (stackAddress (s.sp + 1)))) 4 fun _ _ _ _ => exec_pla _
  | plp =>
    exact .of_silent ((s.advanced 1 4).setSp (s.sp + 1)) (fun _ => s.memRead (stackAddress (s.sp + 1))) 4
      fun _ _ _ _ => exec_plp _
  | nop => exact .of_silent (s.advanced 1 2) id 2 fun _ _ _ _ => exec_nop _
  | unknown op => exact ⟨s.advanced 1 1, id, 1, [⟨op, s.pc⟩], fun _ _ _ _ => exec_unknown _ op⟩

/-- What an instruction gives from a state with other values in P, `cycles` and `diag`, in terms of the state it gives
from `s`. -/
theorem exec_withUnread {i : Instr} {s t : State} (h : exec i s = .next t) :
    ∃ (f : Byte → Byte) (c : Nat) (es : List UnknownInstruction),
      t.p = f s.p ∧ t.cycles = s.cycles + c ∧ t.diag = s.diag ++ es ∧
        ∀ p n d, (i = .php → p = s.p) → exec i (s.withUnread p n d) = .next (t.withUnread (f p) (n + c) (d ++ es)) := by
  obtain ⟨b, f, c, es, hb⟩ := exec_ignoresUnread i s
  have hown : exec i s = .next (b.withUnread (f s.p) (s.cycles + c) (s.diag ++ es)) :=
    hb s.p s.cycles s.diag fun _ => rfl
  obtain rfl := Host.Outcome.next.inj (hown.symm.trans h)
  exact ⟨f, c, es, rfl, rfl, rfl, hb⟩

/-- Settles O39: with another P alone, the next state differs in P alone; decoding reads PC and memory. -/
theorem statusNeverSteersExecution : Obligations.StatusNeverSteersExecution := by
  intro i s t q hi hexec
  obtain ⟨f, c, es, -, hcycles, hdiag, h⟩ := exec_withUnread hexec
  refine ⟨⟨f q, ?_⟩, rfl⟩
  calc exec i (s.setP q)
    _ = .next (t.withUnread (f q) (s.cycles + c) (s.diag ++ es)) := h q s.cycles s.diag fun e => absurd e hi
    _ = .next (t.setP (f q)) := by rw [← hcycles, ← hdiag]; rfl

/-- Settles O40: another counter or other events alone change nothing but that field of the next state; decoding reads
PC and memory. -/
theorem cyclesAndDiagAreNeverRead : Obligations.CyclesAndDiagAreNeverRead := by
  intro i s t hexec
  obtain ⟨f, c, es, hp, hcycles, hdiag, h⟩ := exec_withUnread hexec
  have hcharge : t.cycles - s.cycles = c := by omega
  have hevents : t.diag.drop s.diag.length = es := by rw [hdiag, List.drop_left]
  refine ⟨fun n => ⟨?_, rfl⟩, fun d => ⟨?_, rfl⟩⟩
  · calc exec i (s.setCycles n)
      _ = .next (t.withUnread (f s.p) (n + c) (s.diag ++ es)) := h s.p n s.diag fun _ => rfl
      _ = .next (t.setCycles (n + (t.cycles - s.cycles))) := by rw [hcharge, ← hp, ← hdiag]; rfl
  · calc exec i { s with diag := d }
      _ = .next (t.withUnread (f s.p) (s.cycles + c) (d ++ es)) := h s.p s.cycles d fun _ => rfl
      _ = .next { t with diag := d ++ t.diag.drop s.diag.length } := by rw [hevents, ← hp, ← hcycles]; rfl

end Sys2Proof.Machine
end

section
/-! SUPPORT. Memory as its 65536 bytes: what a sequence of writes leaves, the canonical form, and the port. -/

namespace Sys2Proof.Machine

open Sys2Proof.Safety

/-! ### The bytes of a memory -/

/-- With its addresses rising, a memory reads each of its cells. -/
theorem Memory.read_of_mem {m : Memory} (h : m.Pairwise (fun c d => c.1 < d.1)) {c : Host.Cell} (hc : c ∈ m) :
    m.read c.1 = c.2 := by
  induction m with
  | nil => cases hc
  | cons d m ih =>
    obtain ⟨hd, hm⟩ := List.pairwise_cons.1 h
    rcases List.mem_cons.1 hc with rfl | hc
    · exact if_pos rfl
    · exact (if_neg (hd c hc).ne).trans (ih hm hc)

/-- A byte other than 0x00 is read from a cell. -/
theorem Memory.mem_of_read_ne_zero {m : Memory} {k : Nat} (h : m.read k ≠ 0x00) : (k, m.read k) ∈ m := by
  induction m with
  | nil => exact absurd rfl h
  | cons c m ih =>
    rw [Memory.read] at h ⊢
    split at h
    · next hk => simp [← hk]
    · next hk =>
      rw [if_neg hk]
      exact List.mem_cons_of_mem c (ih h)

/-- A canonical memory has no cell that a memory of the same bytes lacks. -/
theorem Memory.subset_of_read_eq {m n : Memory} (hm : m.wf) (h : ∀ k < 65536, m.read k = n.read k) : m ⊆ n := by
  intro c hc
  obtain ⟨hin, hne⟩ := hm.2 c hc
  have hread : n.read c.1 = c.2 := (h c.1 hin).symm.trans (Memory.read_of_mem hm.1 hc)
  have hcell := Memory.mem_of_read_ne_zero (hread ▸ hne)
  rwa [hread] at hcell

theorem Memory.nodup_of_wf {m : Memory} (h : m.wf) : m.Nodup :=
  h.1.imp fun hlt e => hlt.ne (congrArg Prod.fst e)

/-- Settles O7: the two have the same cells, and rising addresses fix the cells' order. -/
theorem equalBytesMakeEqualMemories : Obligations.EqualBytesMakeEqualMemories := by
  intro m n hm hn h
  have hmn : m ⊆ n := Memory.subset_of_read_eq hm h
  have hnm : n ⊆ m := Memory.subset_of_read_eq hn fun k hk => (h k hk).symm
  have hperm : m.Perm n :=
    (List.perm_ext_iff_of_nodup (Memory.nodup_of_wf hm) (Memory.nodup_of_wf hn)).2 fun _ => ⟨@hmn _, @hnm _⟩
  exact hperm.eq_of_pairwise (fun _ _ _ _ hlt hgt => absurd hlt hgt.asymm) hm.1 hn.1

/-! ### Writes through the port -/

theorem State.memorySameBut_memWrite (s : State) (ea : Word) (v : Byte) : MemorySameBut ea v s (s.memWrite ea v) :=
  ⟨by simp, fun k hk => by simp [hk]⟩

theorem State.sameRegisters_memWrite (s : State) (ea : Word) (v : Byte) : SameRegisters s (s.memWrite ea v) :=
  ⟨fun q => State.memWrite_reg s ea v q, rfl, rfl, rfl, rfl, rfl⟩

theorem State.created_memRead (pc : Word) (sp a x y p : Byte) (k : Word) :
    (State.created pc sp a x y p).memRead k = 0x00 := rfl

/-- Settles O6, by induction on the writes, the last one first. -/
theorem memoryReturnsTheLastWrite : Obligations.MemoryReturnsTheLastWrite := by
  refine ⟨fun pc sp a x y p ws k => ?_, State.memorySameBut_memWrite⟩
  induction ws using List.reverseRecOn with
  | nil => exact State.created_memRead pc sp a x y p k
  | append_singleton ws w ih =>
    rw [List.foldl_concat, State.memRead_memWrite, List.reverse_concat, List.find?_cons]
    by_cases hk : k = w.1
    · simp [hk]
    · rw [if_neg hk, ih, beq_eq_false_iff_ne.2 (Ne.symm hk)]

theorem step_ne_fault (s : State) (f : Fault) : step s ≠ .fault f := by
  intro h
  unfold step at h
  split at h
  · obtain ⟨t, ht⟩ := exec_total s.fetchInstr s
    cases ht.symm.trans h
  · cases h

/-- Settles O8: the port tests its address; an instruction forms 16-bit addresses and does not stop. -/
theorem portFaultsOutsideTheAddressSpace : Obligations.PortFaultsOutsideTheAddressSpace := by
  refine ⟨fun s addr v => ?_, step_ne_fault⟩
  split
  · next h =>
    have hin : addr < 65536 := by omega
    exact ⟨State.portRead_inside s hin, _, State.portWrite_inside s hin v, State.memorySameBut_memWrite s _ v,
      State.sameRegisters_memWrite s _ v, rfl⟩
  · next h =>
    have hout : ¬ addr < 65536 := by omega
    exact ⟨State.portRead_outside s hout, State.portWrite_outside s hout v⟩

end Sys2Proof.Machine
end

section
/-! SUPPORT. What the decoder's instruction owes to each byte of the window: its opcode is the first byte, and the operand
bytes beyond its length do not matter (30_encoding.md R71). -/

namespace Sys2Proof

/-- The decoded instruction's opcode and length are those of the opcode byte. -/
theorem decodeWindow_opcode_length (op b1 b2 : Byte) :
    (decodeWindow op b1 b2).opcode = op ∧ (decodeWindow op b1 b2).length = 1 + operandCount op := by
  unfold decodeWindow operandCount
  cases hd : dispatchTable op with
  | none => exact ⟨rfl, rfl⟩
  | some h =>
    obtain ⟨r, hr, rfl, rfl⟩ := dispatchTable_some hd
    have row := opcodeTable_rows r hr
    cases hh : r.handler with
    | implied i =>
      simp only [hh] at row
      obtain ⟨-, henc, hlen⟩ := row
      exact ⟨List.head_eq_of_cons_eq henc, hlen⟩
    | byteOperand mk =>
      simp only [hh] at row
      obtain ⟨-, henc, hlen⟩ := row b1
      exact ⟨List.head_eq_of_cons_eq henc, hlen⟩
    | wordOperand mk =>
      simp only [hh] at row
      obtain ⟨-, henc, hlen⟩ := row (absOperand b1 b2)
      exact ⟨List.head_eq_of_cons_eq henc, hlen⟩

theorem decodeWindow_opcode (op b1 b2 : Byte) : (decodeWindow op b1 b2).opcode = op :=
  (decodeWindow_opcode_length op b1 b2).1

theorem decodeWindow_length (op b1 b2 : Byte) : (decodeWindow op b1 b2).length = 1 + operandCount op :=
  (decodeWindow_opcode_length op b1 b2).2

/-- Two windows with the same opcode byte and the same operand bytes, as many as that opcode has, decode alike. -/
theorem decodeWindow_congr {op b1 b2 c1 c2 : Byte} (h1 : 1 ≤ operandCount op → b1 = c1)
    (h2 : 2 ≤ operandCount op → b2 = c2) : decodeWindow op b1 b2 = decodeWindow op c1 c2 := by
  unfold operandCount at h1 h2
  unfold decodeWindow
  cases hd : dispatchTable op with
  | none => rfl
  | some h =>
    rw [hd] at h1 h2
    cases h with
    | implied i => rfl
    | byteOperand mk => rw [h1 le_rfl]
    | wordOperand mk => rw [h1 one_le_two, h2 le_rfl]

end Sys2Proof

namespace Sys2Proof.Machine

theorem fetchInstr_opcode (s : State) : s.fetchInstr.opcode = s.memRead s.pc := decodeWindow_opcode _ _ _

/-- Decoding depends on the bytes of the instruction alone: two states with the same PC that agree on as many bytes from
there as the instruction has fetch the same one. -/
theorem fetchInstr_congr {s u : State} (hpc : u.pc = s.pc)
    (h : ∀ n < s.fetchInstr.length, u.memRead (s.pc + BitVec.ofNat 16 n) = s.memRead (s.pc + BitVec.ofNat 16 n)) :
    u.fetchInstr = s.fetchInstr := by
  rw [State.fetchInstr_eq, decodeWindow_length] at h
  rw [State.fetchInstr_eq, State.fetchInstr_eq, hpc]
  have h0 : u.memRead s.pc = s.memRead s.pc := by simpa using h 0 (by omega)
  rw [h0]
  refine decodeWindow_congr (fun h1 => h 1 (by omega)) fun h2 => ?_
  rw [advance_two]
  exact h 2 (by omega)

end Sys2Proof.Machine
end

section
/-! SUPPORT. What the host's requests make of memory (20_memory.md R62, 40_engine.md R103). -/

namespace Sys2Proof.Machine

theorem hostCall_writeMemory_inside {addr : Nat} (h : addr < 65536) (v : Byte) (s : State) :
    hostCall (.writeMemory addr v) s = .next (s.memWrite (BitVec.ofNat 16 addr) v, .done) := by
  show hostWriteMemory addr v s = _
  rw [hostWriteMemory, State.portWrite_inside s h]

/-- Settles O56: decoding takes the opcode from the byte at PC, which the host has written. -/
theorem hostWriteIsSeenByTheNextFetch : Obligations.HostWriteIsSeenByTheNextFetch := by
  intro s addr v
  have hread : (s.memWrite addr v).memRead addr = v := by simp
  refine ⟨s.memWrite addr v, ?_, hread, ?_⟩
  · rw [hostCall_writeMemory_inside addr.isLt, BitVec.ofNat_toNat, BitVec.setWidth_eq]
  · rintro rfl
    exact (fetchInstr_opcode _).trans hread

/-- What every step keeps, the loop of `execute` keeps (40_engine.md R91). -/
theorem executeLoop_keeps {Q : State → Prop} (hstep : ∀ s t, Q s → step s = .next t → Q t) (budget : Int) (fuel : Nat)
    {s t : State} (hs : Q s) (h : executeLoop budget fuel s = .next t) : Q t := by
  induction fuel generalizing s with
  | zero =>
    cases h
    exact hs
  | succ fuel ih =>
    rw [executeLoop] at h
    split at h
    · split at h
      · next u hu => exact ih (hstep s u hs hu) h
      · cases h
      · cases h
    · cases h
      exact hs

/-- A completed `execute` is a completed loop from `cycles` 0. -/
theorem execute_cases {budget n : Int} {s t : State} (h : execute budget s = .next (n, t)) :
    executeLoop budget budget.toNat (s.setCycles 0) = .next t := by
  unfold execute at h
  split at h
  · cases hl : executeLoop budget budget.toNat (s.setCycles 0) with
    | next u =>
      rw [hl] at h
      cases h
      rfl
    | fault f => rw [hl] at h; cases h
    | refused r => rw [hl] at h; cases h
  · cases h

theorem step_wf_mem (s t : State) (hm : s.mem.wf) (h : step s = .next t) : t.mem.wf :=
  (exec_shape _ s t (step_cases h).2).wf_mem hm

theorem execute_wf_mem {budget n : Int} {s t : State} (hm : s.mem.wf) (h : execute budget s = .next (n, t)) :
    t.mem.wf :=
  executeLoop_keeps (Q := fun u => u.mem.wf) (s := s.setCycles 0) step_wf_mem budget _ hm (execute_cases h)

/-- Every answered request keeps the canonical form: all but `execute` and a write leave memory as it is. -/
theorem hostCall_wf_mem {q : HostRequest} {s t : State} {reply : HostReply} (hm : s.mem.wf)
    (h : hostCall q s = .next (t, reply)) : t.mem.wf := by
  cases q with
  | reset | readDiag =>
    cases h
    exact hm
  | execute budget =>
    change hostExecute budget s = _ at h
    unfold hostExecute at h
    split at h
    · next n u hu =>
      cases h
      exact execute_wf_mem hm hu
    · cases h
    · cases h
  | readRegister r =>
    change hostReadRegister r s = _ at h
    unfold hostReadRegister at h
    split at h
    · cases h
      exact hm
    · cases h
  | readMemory addr =>
    change hostReadMemory addr s = _ at h
    unfold hostReadMemory at h
    split at h
    · cases h
      exact hm
    · cases h
    · cases h
  | writeMemory addr v =>
    by_cases hin : addr < 65536
    · rw [hostCall_writeMemory_inside hin] at h
      cases h
      exact State.wf_memWrite hm _ v
    · change hostWriteMemory addr v s = _ at h
      rw [hostWriteMemory, State.portWrite_outside s hin] at h
      cases h

/-- An answered sequence of requests is an answered first request and an answered rest. -/
theorem hostRun_cons_cases {q : HostRequest} {qs : List HostRequest} {s t : State} {replies : List HostReply}
    (h : hostRun (q :: qs) s = .next (t, replies)) :
    ∃ u reply rest, hostCall q s = .next (u, reply) ∧ hostRun qs u = .next (t, rest) ∧ replies = reply :: rest := by
  rw [hostRun] at h
  split at h
  · cases h
  · cases h
  · next u reply hu =>
    split at h
    · cases h
    · cases h
    · next rest hrest =>
      cases h
      exact ⟨u, reply, _, hu, hrest, rfl⟩

/-- Settles O55, by induction on the requests. -/
theorem hostSessionsKeepMemoryCanonical : Obligations.HostSessionsKeepMemoryCanonical := by
  intro qs
  induction qs with
  | nil =>
    intro s t replies hm h
    cases h
    exact hm
  | cons q qs ih =>
    intro s t replies hm h
    obtain ⟨u, reply, rest, hcall, hrun, -⟩ := hostRun_cons_cases h
    exact ih u t rest (hostCall_wf_mem hm hcall) hrun

end Sys2Proof.Machine
end

section
/-! SUPPORT. The access lists (20_memory.md R57) as the whole of an instruction's traffic with memory: what order they have,
what memory holds after them, and that an instruction's next state depends on memory through their reads alone. -/

namespace Sys2Proof.Machine

open Sys2Proof.Safety

/-! ### The order of an access list -/

/-- A data or pointer read. -/
def Access.isRead : Access → Bool
  | .read _ => true
  | _ => false

/-- A data write. -/
def Access.isWrite : Access → Bool
  | .write _ _ => true
  | _ => false

theorem Access.isRead_iff {acc : Access} : acc.isRead = true ↔ ∃ k, acc = .read k := by
  cases acc <;> simp [Access.isRead]

theorem Access.isWrite_iff {acc : Access} : acc.isWrite = true ↔ ∃ k v, acc = .write k v := by
  cases acc <;> simp [Access.isWrite]

/-- The table of data accesses: reads first, then the writes. -/
theorem dataAccesses_eq_reads_append_writes (i : Instr) (s : State) :
    dataAccesses i s = (dataAccesses i s).filter Access.isRead ++ (dataAccesses i s).filter Access.isWrite := by
  cases i <;> rfl

/-- The table of data accesses: one write for the stores, PHA and PHP, and none for the others. -/
theorem length_writes_dataAccesses (i : Instr) (s : State) :
    ((dataAccesses i s).filter Access.isWrite).length = (writesMemory i).toNat := by
  cases i <;> rfl

theorem writes_eq_singleton {i : Instr} {s : State} {k : Word} {v : Byte} (h : .write k v ∈ dataAccesses i s) :
    (dataAccesses i s).filter Access.isWrite = [.write k v] := by
  have hmem : .write k v ∈ (dataAccesses i s).filter Access.isWrite := List.mem_filter.2 ⟨h, rfl⟩
  have hle : ((dataAccesses i s).filter Access.isWrite).length ≤ 1 :=
    (length_writes_dataAccesses i s).trans_le (Bool.toNat_le _)
  obtain ⟨acc, hacc⟩ := List.length_eq_one_iff.1 (le_antisymm hle (List.length_pos_of_mem hmem))
  rw [hacc, List.mem_singleton] at hmem
  rw [hacc, hmem]

theorem writes_eq_nil {i : Instr} (h : writesMemory i = false) (s : State) :
    (dataAccesses i s).filter Access.isWrite = [] :=
  List.length_eq_zero_iff.1 ((length_writes_dataAccesses i s).trans (by rw [h]; rfl))

theorem fetches_eq_map_range (pc : Word) (n : Nat) :
    fetches pc n = (List.range n).map fun j => Access.fetch (pc + BitVec.ofNat 16 j) := by
  induction n generalizing pc with
  | zero => rfl
  | succ n ih =>
    have hnext (j : Nat) : pc + 1 + BitVec.ofNat 16 j = pc + BitVec.ofNat 16 (j + 1) := by
      rw [Nat.add_comm j, BitVec.ofNat_add, ← BitVec.add_assoc]
      rfl
    rw [List.range_succ_eq_map, List.map_cons, List.map_map, fetches, ih, BitVec.add_zero]
    exact congrArg _ (List.map_congr_left fun j _ => congrArg Access.fetch (hnext j))

theorem fetch_mem_accesses {i : Instr} {n : Nat} (h : n < i.length) (s : State) :
    .fetch (s.pc + BitVec.ofNat 16 n) ∈ accesses i s := by
  rw [accesses, fetches_eq_map_range]
  exact List.mem_append_left _ (List.mem_map.2 ⟨n, List.mem_range.2 h, rfl⟩)

theorem mem_accesses_of_mem_dataAccesses {i : Instr} {s : State} {acc : Access} (h : acc ∈ dataAccesses i s) :
    acc ∈ accesses i s := List.mem_append_right _ h

theorem write_mem_accesses {i : Instr} {s : State} {k : Word} {v : Byte} :
    .write k v ∈ accesses i s ↔ .write k v ∈ dataAccesses i s := by
  simp [accesses, fetches_eq_map_range]

/-- Settles O43: the data accesses are their reads followed by their writes, of which there is one or none. -/
theorem accessesFollowTheFixedOrder : Obligations.AccessesFollowTheFixedOrder := by
  intro i s
  refine ⟨(dataAccesses i s).filter Access.isRead, (dataAccesses i s).filter Access.isWrite, ?_, ?_, ?_, ?_, ?_⟩
  · rw [List.append_assoc, ← dataAccesses_eq_reads_append_writes, ← fetches_eq_map_range, accesses]
  · exact fun acc h => Access.isRead_iff.1 (List.mem_filter.1 h).2
  · exact fun acc h => Access.isWrite_iff.1 (List.mem_filter.1 h).2
  · exact (length_writes_dataAccesses i s).trans_le (Bool.toNat_le _)
  · rw [length_writes_dataAccesses, Bool.toNat_eq_one]

/-! ### Memory after an access list -/

/-- What one access makes of memory: a write writes, a fetch or read changes nothing (20_memory.md R46, R49). -/
def Access.applyTo (m : Memory) : Access → Memory
  | .write k v => m.write k.toNat v
  | .read _ => m
  | .fetch _ => m

/-- Memory after a list of accesses, made in order. -/
def Memory.after (m : Memory) (accs : List Access) : Memory := accs.foldl Access.applyTo m

theorem Memory.after_eq_after_writes (m : Memory) (accs : List Access) :
    m.after accs = m.after (accs.filter Access.isWrite) := by
  induction accs generalizing m with
  | nil => rfl
  | cons acc accs ih => cases acc <;> exact ih _

theorem Memory.read_after_of_not_written {accs : List Access} {k : Word} (m : Memory)
    (h : ∀ v, Access.write k v ∉ accs) : (m.after accs).read k.toNat = m.read k.toNat := by
  induction accs generalizing m with
  | nil => rfl
  | cons acc accs ih =>
    have hrest := ih (acc.applyTo m) fun v hv => h v (List.mem_cons_of_mem acc hv)
    refine Eq.trans hrest ?_
    cases acc with
    | fetch | read => rfl
    | write j v =>
      have hj : k.toNat ≠ j.toNat := fun e => h v (BitVec.eq_of_toNat_eq e ▸ List.mem_cons_self)
      exact (Memory.read_write m _ v _).trans (if_neg hj)

theorem Memory.read_after_of_written {i : Instr} {s : State} {k : Word} {v : Byte} (m : Memory)
    (h : .write k v ∈ dataAccesses i s) : (m.after (dataAccesses i s)).read k.toNat = v := by
  rw [Memory.after_eq_after_writes, writes_eq_singleton h]
  exact (Memory.read_write m _ v _).trans (if_pos rfl)

theorem Memory.after_of_not_writesMemory {i : Instr} (h : writesMemory i = false) (s : State) (m : Memory) :
    m.after (dataAccesses i s) = m := by
  rw [Memory.after_eq_after_writes, writes_eq_nil h]
  rfl

/-! ### An instruction and its data accesses -/

/-- The state with another memory. -/
abbrev State.withMem (s : State) (m : Memory) : State := { s with mem := m }

/-- The memory gives what the state's own memory gives at every address the instruction's list reads. -/
def AgreesOnReads (i : Instr) (s : State) (m : Memory) : Prop :=
  ∀ k, .read k ∈ dataAccesses i s → m.read k.toNat = s.memRead k

/-- What instruction `i` does in `s` with any memory that agrees on the listed reads: `b` fixes the next state but for its
memory, which becomes what the list makes of it. -/
def ActsByItsAccesses (i : Instr) (s : State) : Prop :=
  ∃ b : State, ∀ m, AgreesOnReads i s m → exec i (s.withMem m) = .next (b.withMem (m.after (dataAccesses i s)))

section Families

variable {i : Instr} {s : State}

theorem pointerAt_withMem {m : Memory} {q : Byte} (hlo : m.read (zext16 q).toNat = s.memRead (zext16 q))
    (hhi : m.read (zext16 (q + 1)).toNat = s.memRead (zext16 (q + 1))) :
    pointerAt (s.withMem m) q = pointerAt s q :=
  congrArg₂ wordOf hhi hlo

/-- A load or transfer whose value, cycles and lack of writes show in its list. -/
theorem ActsByItsAccesses.of_load {r : Reg} {v : State → Byte} {len : Word} {c : State → Nat}
    (h : ∀ u, exec i u = .next (load r (v u) (u.advanced len (c u)))) (hw : writesMemory i = false)
    (hv : ∀ m, AgreesOnReads i s m → v (s.withMem m) = v s)
    (hc : ∀ m, AgreesOnReads i s m → c (s.withMem m) = c s) : ActsByItsAccesses i s := by
  refine ⟨load r (v s) (s.advanced len (c s)), fun m hm => ?_⟩
  rw [h, hv m hm, hc m hm, Memory.after_of_not_writesMemory hw]
  cases r <;> rfl

/-- A load or transfer whose value and cycles do not come from memory. -/
theorem ActsByItsAccesses.of_loadValue {r : Reg} {v : State → Byte} {len : Word} {c : Nat}
    (h : ∀ u, exec i u = .next (load r (v u) (u.advanced len c))) (hw : writesMemory i = false := by rfl)
    (hv : ∀ m, v (s.withMem m) = v s := by intros; rfl) : ActsByItsAccesses i s :=
  .of_load h hw (fun m _ => hv m) fun _ _ => rfl

/-- A load from an address that its list reads and that does not come from memory itself. -/
theorem ActsByItsAccesses.of_loadAt {r : Reg} {ea : State → Word} {len : Word} {c : State → Nat}
    (h : ∀ u, exec i u = .next (load r (u.memRead (ea u)) (u.advanced len (c u))))
    (hw : writesMemory i = false := by rfl) (hread : .read (ea s) ∈ dataAccesses i s := by exact .head _)
    (hea : ∀ m, ea (s.withMem m) = ea s := by intros; rfl)
    (hc : ∀ m, c (s.withMem m) = c s := by intros; rfl) : ActsByItsAccesses i s :=
  .of_load h hw (fun m hm => (congrArg (s.withMem m).memRead (hea m)).trans (hm _ hread)) fun m _ => hc m

/-- A store whose address, value and one write show in its list. -/
theorem ActsByItsAccesses.of_store {ea : State → Word} {v : State → Byte} {len : Word} {c : Nat}
    (h : ∀ u, exec i u = .next ((u.advanced len c).memWrite (ea u) (v u)))
    (hea : ∀ m, AgreesOnReads i s m → ea (s.withMem m) = ea s := by intros; rfl)
    (hv : ∀ m, v (s.withMem m) = v s := by intros; rfl)
    (hafter : ∀ m : Memory, m.after (dataAccesses i s) = m.write (ea s).toNat (v s) := by intros; rfl) :
    ActsByItsAccesses i s := by
  refine ⟨s.advanced len c, fun m hm => ?_⟩
  rw [h, hea m hm, hv, hafter]
  rfl

end Families

/-- Every instruction reads and writes memory as its list says. -/
theorem exec_actsByItsAccesses (i : Instr) (s : State) : ActsByItsAccesses i s := by
  cases i with
  | ldaImm b => exact .of_loadValue (exec_ldaImm · b)
  | ldaZp z => exact .of_loadAt (exec_ldaZp · z)
  | ldaZpX z => exact .of_loadAt (exec_ldaZpX · z)
  | ldaAbs w => exact .of_loadAt (exec_ldaAbs · w)
  | ldaAbsX w => exact .of_loadAt (exec_ldaAbsX · w)
  | ldaAbsY w => exact .of_loadAt (exec_ldaAbsY · w)
  | ldaIndX q =>
    have hptr : ∀ m, AgreesOnReads (.ldaIndX q) s m → pointerAt (s.withMem m) (q + s.x) = pointerAt s (q + s.x) :=
      fun m hm => pointerAt_withMem (hm _ (.head _)) (hm _ (.tail _ (.head _)))
    refine .of_load (exec_ldaIndX · q) rfl (fun m hm => ?_) fun _ _ => rfl
    rw [hptr m hm]
    exact hm _ (.tail _ (.tail _ (.head _)))
  | ldaIndY q =>
    have hbase : ∀ m, AgreesOnReads (.ldaIndY q) s m → indYBase (s.withMem m) q = indYBase s q :=
      fun m hm => pointerAt_withMem (hm _ (.head _)) (hm _ (.tail _ (.head _)))
    refine .of_load (exec_ldaIndY · q) rfl (fun m hm => ?_) fun m hm => by rw [hbase m hm]
    rw [hbase m hm]
    exact hm _ (.tail _ (.tail _ (.head _)))
  | ldxImm b => exact .of_loadValue (exec_ldxImm · b)
  | ldxZp z => exact .of_loadAt (exec_ldxZp · z)
  | ldxZpY z => exact .of_loadAt (exec_ldxZpY · z)
  | ldxAbs w => exact .of_loadAt (exec_ldxAbs · w)
  | ldxAbsY w => exact .of_loadAt (exec_ldxAbsY · w)
  | ldyImm b => exact .of_loadValue (exec_ldyImm · b)
  | ldyZp z => exact .of_loadAt (exec_ldyZp · z)
  | ldyZpX z => exact .of_loadAt (exec_ldyZpX · z)
  | ldyAbs w => exact .of_loadAt (exec_ldyAbs · w)
  | ldyAbsX w => exact .of_loadAt (exec_ldyAbsX · w)
  | staZp z => exact .of_store (exec_staZp · z)
  | staZpX z => exact .of_store (exec_staZpX · z)
  | staAbs w => exact .of_store (exec_staAbs · w)
  | staAbsX w => exact .of_store (exec_staAbsX · w)
  | staAbsY w => exact .of_store (exec_staAbsY · w)
  | staIndX q =>
    exact .of_store (exec_staIndX · q) fun m hm => pointerAt_withMem (hm _ (.head _)) (hm _ (.tail _ (.head _)))
  | staIndY q =>
    refine .of_store (exec_staIndY · q) fun m hm => congrArg (indexedEa · s.y) ?_
    exact pointerAt_withMem (hm _ (.head _)) (hm _ (.tail _ (.head _)))
  | stxZp z => exact .of_store (exec_stxZp · z)
  | stxZpY z => exact .of_store (exec_stxZpY · z)
  | stxAbs w => exact .of_store (exec_stxAbs · w)
  | styZp z => exact .of_store (exec_styZp · z)
  | styZpX z => exact .of_store (exec_styZpX · z)
  | styAbs w => exact .of_store (exec_styAbs · w)
  | tax => exact .of_loadValue exec_tax
  | tay => exact .of_loadValue exec_tay
  | txa => exact .of_loadValue exec_txa
  | tya => exact .of_loadValue exec_tya
  | tsx => exact .of_loadValue exec_tsx
  | txs => exact ⟨(s.advanced 1 2).setSp s.x, fun _ _ => exec_txs _⟩
  | pha => exact ⟨(s.advanced 1 3).setSp (s.sp - 1), fun _ _ => exec_pha _⟩
  | php =>
    refine ⟨(s.advanced 1 3).setSp (s.sp - 1), fun m _ => ?_⟩
    have hp : s.p ||| Config.phpForceMask = s.p := by simp
    rw [exec_php, dataAccesses, hp]
    rfl
  | pla =>
    refine ⟨load .a (s.memRead (stackAddress (s.sp + 1))) ((s.advanced 1 4).setSp (s.sp + 1)), fun m hm => ?_⟩
    rw [exec_pla, ← hm _ (.head _)]
    rfl
  | plp =>
    refine ⟨((s.advanced 1 4).setSp (s.sp + 1)).setP (s.memRead (stackAddress (s.sp + 1))), fun m hm => ?_⟩
    rw [exec_plp, ← hm _ (.head _)]
    rfl
  | nop => exact ⟨s.advanced 1 2, fun _ _ => exec_nop _⟩
  | unknown op => exact ⟨(s.advanced 1 1).emitUnknown op s.pc, fun _ _ => exec_unknown _ op⟩

section Exec

variable {i : Instr} {s t : State}

/-- The two readings of `ActsByItsAccesses` that proofs use: the memory an instruction leaves, and what it gives from the
same state with another memory. -/
theorem exec_accesses (h : exec i s = .next t) :
    t.mem = s.mem.after (dataAccesses i s) ∧
      ∀ m, AgreesOnReads i s m → exec i (s.withMem m) = .next (t.withMem (m.after (dataAccesses i s))) := by
  obtain ⟨b, hb⟩ := exec_actsByItsAccesses i s
  have hown : exec i s = .next (b.withMem (s.mem.after (dataAccesses i s))) := hb s.mem fun _ _ => rfl
  obtain rfl := Host.Outcome.next.inj (hown.symm.trans h)
  exact ⟨rfl, hb⟩

theorem exec_mem (h : exec i s = .next t) : t.mem = s.mem.after (dataAccesses i s) := (exec_accesses h).1

theorem exec_withMem (h : exec i s = .next t) {m : Memory} (hm : AgreesOnReads i s m) :
    exec i (s.withMem m) = .next (t.withMem (m.after (dataAccesses i s))) := (exec_accesses h).2 m hm

theorem exec_memRead_of_written (h : exec i s = .next t) {k : Word} {v : Byte} (hk : .write k v ∈ dataAccesses i s) :
    t.memRead k = v := by
  rw [State.memRead, exec_mem h, Memory.read_after_of_written s.mem hk]

theorem exec_memRead_of_not_written (h : exec i s = .next t) {k : Word}
    (hk : ∀ v, Access.write k v ∉ dataAccesses i s) : t.memRead k = s.memRead k := by
  rw [State.memRead, exec_mem h, Memory.read_after_of_not_written s.mem hk, State.memRead]

end Exec

/-! ### The statements about an instruction's traffic with memory -/

/-- Settles O35: the list of such an instruction holds no write. -/
theorem onlyStoresAndPushesWriteMemory : Obligations.OnlyStoresAndPushesWriteMemory := by
  refine ⟨fun i s t hw hexec => ?_, fun s => rfl⟩
  have hmem : t.mem = s.mem := (exec_mem hexec).trans (Memory.after_of_not_writesMemory hw s s.mem)
  exact ⟨hmem, State.memRead_congr hmem⟩

/-- Settles O37: memory is what the list makes of it. -/
theorem memoryChangesAreTheListedWrites : Obligations.MemoryChangesAreTheListedWrites := by
  intro i s t hexec k
  simp only [write_mem_accesses]
  exact ⟨fun v => exec_memRead_of_written hexec, exec_memRead_of_not_written hexec⟩

/-- Settles O42: the written byte is in memory, and the next step decodes from memory at PC. -/
theorem storedByteIsSeenByTheNextFetch : Obligations.StoredByteIsSeenByTheNextFetch := by
  rintro i s t k v hexec hwrite rfl hdef
  have hread : t.memRead t.pc = v := exec_memRead_of_written hexec (write_mem_accesses.1 hwrite)
  refine ⟨(fetchInstr_opcode t).trans hread, ?_⟩
  rw [step_defined hdef, State.fetchInstr_eq, hread, advance_two]

/-- Settles O41: the fetches decide the instruction, the reads its effect, and both memories end up with its writes. -/
theorem stepDependsOnlyOnItsAccesses : Obligations.StepDependsOnlyOnItsAccesses := by
  intro s m hdef hagree
  have hfetch : (s.withMem m).fetchInstr = s.fetchInstr :=
    fetchInstr_congr rfl fun n hn => hagree _ (fetch_mem_accesses hn s) nofun
  have hreads : AgreesOnReads s.fetchInstr s m :=
    fun k hk => hagree _ (mem_accesses_of_mem_dataAccesses hk) nofun
  obtain ⟨t, hexec⟩ := exec_total s.fetchInstr s
  refine ⟨t, m.after (dataAccesses s.fetchInstr s), (step_defined hdef).trans hexec, ?_, fun acc hacc => ?_,
    fun k hk => ?_⟩
  · rw [step_defined (s := s.withMem m) hdef, hfetch, exec_withMem hexec hreads]
  · by_cases hw : ∃ v, .write acc.addr v ∈ dataAccesses s.fetchInstr s
    · obtain ⟨v, hv⟩ := hw
      rw [Memory.read_after_of_written m hv, exec_memRead_of_written hexec hv]
    · have hnot : ∀ v, Access.write acc.addr v ∉ dataAccesses s.fetchInstr s := not_exists.1 hw
      rw [Memory.read_after_of_not_written m hnot, exec_memRead_of_not_written hexec hnot]
      exact hagree acc hacc fun k v hkv => by
        subst hkv
        exact hnot v (write_mem_accesses.1 hacc)
  · exact Memory.read_after_of_not_written m fun v hv => hk _ (mem_accesses_of_mem_dataAccesses hv) rfl

/-- Settles O14: the list names the stack byte, whose address is 0x0100 above SP. -/
theorem stackAccessesStayInTheStackPage : Obligations.StackAccessesStayInTheStackPage := by
  intro s
  have hdec : (s.sp - 1).toNat = (s.sp.toNat + 255) % 256 := by simp [BitVec.toNat_sub, Nat.add_comm]
  have hinc : (s.sp + 1).toNat = (s.sp.toNat + 1) % 256 := by simp
  refine ⟨fun i hi => ?_, fun i hi => ?_, fun sp => ?_⟩
  · rcases List.mem_pair.1 hi with rfl | rfl
    · exact ⟨_, _, exec_pha s, rfl, stackAddress_toNat s.sp, hdec⟩
    · exact ⟨_, _, exec_php s, rfl, stackAddress_toNat s.sp, hdec⟩
  · rcases List.mem_pair.1 hi with rfl | rfl
    · exact ⟨_, exec_pla s, rfl, stackAddress_toNat _, hinc⟩
    · exact ⟨_, exec_plp s, rfl, stackAddress_toNat _, hinc⟩
  · have := sp.isLt
    rw [stackAddress_toNat]
    omega

end Sys2Proof.Machine
end

section
/-! SUPPORT. Decoding and encoding undo each other (30_encoding.md R70..R80): what the decoder does with each kind of entry
of the dispatch table, with the bytes of an instruction and with the bytes of a window. -/

namespace Sys2Proof

/-! ### The operand bytes of an absolute form -/

theorem absOperand_absBytes (w : Word) : absOperand ((absBytes w).getD 0 0) ((absBytes w).getD 1 0) = w :=
  wordOf_hi8_lo8 w

theorem absBytes_length (w : Word) : (absBytes w).length = 2 := rfl

theorem absBytes_absOperand (b1 b2 : Byte) : absBytes (absOperand b1 b2) = [b1, b2] :=
  congrArg₂ (fun h l => [h, l]) (hi8_wordOf b1 b2) (lo8_wordOf b1 b2)

/-! ### The decoder on a byte string -/

theorem decode_cons_short {op : Byte} {rest : List Byte} (h : rest.length < operandCount op) :
    decode (op :: rest) = .error (.missingOperand op) := if_pos h

theorem decode_cons_whole {op : Byte} {rest : List Byte} (h : operandCount op ≤ rest.length) :
    decode (op :: rest) = .ok (decodeWindow op (rest.getD 0 0) (rest.getD 1 0), rest.drop (operandCount op)) :=
  if_neg h.not_gt

/-- An opcode byte with as many operand bytes as it calls for, and any bytes after them. -/
theorem decode_append {op : Byte} {bs : List Byte} (h : bs.length = operandCount op) (rest : List Byte) :
    decode (op :: bs ++ rest) = .ok (decodeWindow op ((bs ++ rest).getD 0 0) ((bs ++ rest).getD 1 0), rest) := by
  have hlen : operandCount op ≤ (bs ++ rest).length := by rw [← h, List.length_append]; exact Nat.le_add_right _ _
  rw [List.cons_append, decode_cons_whole hlen, List.drop_left' h]

/-- The only byte strings that decode. -/
theorem decode_eq_ok {bytes rest : List Byte} {i : Instr} (h : decode bytes = .ok (i, rest)) :
    ∃ op tail, bytes = op :: tail ∧ operandCount op ≤ tail.length ∧
      i = decodeWindow op (tail.getD 0 0) (tail.getD 1 0) ∧ rest = tail.drop (operandCount op) := by
  cases bytes with
  | nil => cases h
  | cons op tail =>
    rcases lt_or_ge tail.length (operandCount op) with hshort | hwhole
    · rw [decode_cons_short hshort] at h
      cases h
    · rw [decode_cons_whole hwhole] at h
      cases h
      exact ⟨op, tail, rfl, hwhole, rfl, rfl⟩

/-! ### One equation per kind of entry -/

section Entries

variable {op : Byte}

theorem decodeWindow_unlisted (h : dispatchTable op = none) (b1 b2 : Byte) : decodeWindow op b1 b2 = .unknown op := by
  rw [decodeWindow, h]

theorem decode_unlisted (h : dispatchTable op = none) (rest : List Byte) :
    decode (op :: rest) = .ok (.unknown op, rest) := by
  have hn : ([] : List Byte).length = operandCount op := by rw [operandCount, h, List.length_nil]
  exact (decode_append hn rest).trans (by rw [decodeWindow, h])

theorem decode_implied {i : Instr} (h : dispatchTable op = some (.implied i)) (rest : List Byte) :
    decode (op :: rest) = .ok (i, rest) := by
  have hn : ([] : List Byte).length = operandCount op := by rw [operandCount, h, List.length_nil]
  exact (decode_append hn rest).trans (by rw [decodeWindow, h])

theorem decode_byteOperand {mk : Byte → Instr} (h : dispatchTable op = some (.byteOperand mk)) (b : Byte)
    (rest : List Byte) : decode (op :: [b] ++ rest) = .ok (mk b, rest) := by
  have hn : [b].length = operandCount op := by rw [operandCount, h, List.length_singleton]
  rw [decode_append hn, decodeWindow, h]
  rfl

theorem decode_wordOperand {mk : Word → Instr} (h : dispatchTable op = some (.wordOperand mk)) (w : Word)
    (rest : List Byte) : decode (op :: absBytes w ++ rest) = .ok (mk w, rest) := by
  have hn : (absBytes w).length = operandCount op := by rw [operandCount, h, absBytes_length]
  rw [decode_append hn, decodeWindow, h]
  exact congrArg (fun v => Except.ok (mk v, rest)) (absOperand_absBytes w)

end Entries

/-! ### Decoding what was encoded -/

/-- The encoder and the dispatch table, written apart from each other, agree: each opcode byte selects the entry
that builds its instruction from the operand bytes. -/
theorem decode_encode {i : Instr} (h : i.wellFormed = true) (rest : List Byte) :
    decode (encode i ++ rest) = .ok (i, rest) := by
  cases i with
  | tax | tay | txa | tya | tsx | txs | pha | php | pla | plp | nop => exact decode_implied rfl rest
  | ldaImm b | ldaZp b | ldaZpX b | ldaIndX b | ldaIndY b | ldxImm b | ldxZp b | ldxZpY b | ldyImm b | ldyZp b
  | ldyZpX b | staZp b | staZpX b | staIndX b | staIndY b | stxZp b | stxZpY b | styZp b | styZpX b =>
    exact decode_byteOperand rfl b rest
  | ldaAbs w | ldaAbsX w | ldaAbsY w | ldxAbs w | ldxAbsY w | ldyAbs w | ldyAbsX w | staAbs w | staAbsX w | staAbsY w
  | stxAbs w | styAbs w => exact decode_wordOperand rfl w rest
  | unknown op => exact decode_unlisted (Option.isNone_iff_eq_none.1 h) rest

/-! ### Encoding what was decoded -/

theorem encode_decodeWindow (op b1 b2 : Byte) :
    encode (decodeWindow op b1 b2) = op :: [b1, b2].take (operandCount op) := by
  unfold decodeWindow operandCount
  cases hd : dispatchTable op with
  | none => rfl
  | some h =>
    obtain ⟨r, hr, rfl, rfl⟩ := dispatchTable_some hd
    have row := opcodeTable_rows r hr
    cases hh : r.handler with
    | implied i =>
      simp only [hh] at row
      obtain ⟨-, henc, -⟩ := row
      exact henc
    | byteOperand mk =>
      simp only [hh] at row
      obtain ⟨-, henc, -⟩ := row b1
      exact henc
    | wordOperand mk =>
      simp only [hh] at row
      obtain ⟨-, henc, -⟩ := row (absOperand b1 b2)
      exact henc.trans (congrArg (r.opcode :: ·) (absBytes_absOperand b1 b2))

/-- The window `decode` looks at holds the first operand bytes that are there. -/
theorem take_window_eq {n : Nat} (hn : n ≤ 2) {bs : List Byte} (h : n ≤ bs.length) :
    [bs.getD 0 0, bs.getD 1 0].take n = bs.take n := by
  match n, bs, hn, h with
  | 0, _, _, _ => rfl
  | 1, _ :: _, _, _ => rfl
  | 2, _ :: _ :: _, _, _ => rfl

/-- Settles O2, by the entry each opcode byte selects (`decode_encode`). -/
theorem encodeThenDecodeGivesTheInstruction : Obligations.EncodeThenDecodeGivesTheInstruction :=
  fun _ rest h => decode_encode h rest

/-- Settles O3: a window's instruction encodes to the opcode byte and the operand bytes it was read from. -/
theorem decodeThenEncodeGivesTheBytes : Obligations.DecodeThenEncodeGivesTheBytes := by
  intro bytes i rest h
  obtain ⟨op, tail, rfl, hwhole, rfl, rfl⟩ := decode_eq_ok h
  have henc := encode_decodeWindow op (tail.getD 0 0) (tail.getD 1 0)
  rw [take_window_eq (operandCount_le_two op) hwhole] at henc
  refine ⟨wellFormed_decodeWindow _ _ _, ?_, ?_⟩
  · rw [henc, List.cons_append, List.take_append_drop]
  · rw [henc, decodeWindow_length, List.length_cons, List.length_take_of_le hwhole, Nat.add_comm]

/-- Settles O4: the count is the one the opcode byte's entry in the dispatch table calls for. -/
theorem opcodeByteFixesTheLength : Obligations.OpcodeByteFixesTheLength := by
  refine fun op => ⟨operandCount op, operandCount_le_two op, fun rest => ⟨decode_cons_short, fun hwhole =>
    ⟨_, decode_cons_whole hwhole, ?_, decodeWindow_opcode _ _ _⟩⟩⟩
  rw [decodeWindow_length, Nat.add_comm]

/-- Settles O1: each byte, looked up in the dispatch table. -/
theorem opcodeBytesSelectTheirInstructions : Obligations.OpcodeBytesSelectTheirInstructions := by
  intro b1 b2
  and_intros <;> rfl

/-- The list of 30_encoding.md R80 against the dispatch table, byte by byte. -/
theorem isUnknownOpcode_eq_decide_mem :
    ∀ op : Byte, isUnknownOpcode op = decide (op.toNat ∈ Safety.unknownBytes) := by decide

/-- Settles O5: a listed byte has no entry in the dispatch table, and then the bytes after it play no part. -/
theorem unlistedBytesAreUnknown : Obligations.UnlistedBytesAreUnknown := by
  refine fun op => ⟨isUnknownOpcode_eq_decide_mem op, fun hmem => decodeWindow_unlisted ?_⟩
  have hunknown : isUnknownOpcode op = true := (isUnknownOpcode_eq_decide_mem op).trans (decide_eq_true hmem)
  exact Option.isNone_iff_eq_none.1 hunknown

end Sys2Proof
end

section
/-! SUPPORT. Z and N after an instruction, how far PC advances and how many cycles are charged, read off an instruction's
shape; the unknown opcode; and the instruction a step runs (40_engine.md R95..R105). -/

namespace Sys2Proof.Machine

open Sys2Proof.Safety

/-- `SetZN` bit by bit (R99): the mask 0x7D keeps the six bits other than Z and N. -/
theorem znFrom_setZN (p v : Byte) : ZNFrom p (Flags.setZN p v) v := by
  unfold ZNFrom Flags.setZN Flags.c Flags.z Flags.i Flags.d Flags.b Flags.u Flags.v Flags.n
  by_cases hv : v = 0#8
  · simp [hv]
  · simp [hv]

section LoadFields

variable (r : Reg) (v : Byte) (s : State)

@[simp] theorem load_pc : (load r v s).pc = s.pc := by simp [load]
@[simp] theorem load_cycles : (load r v s).cycles = s.cycles := by simp [load]
@[simp] theorem load_reg_same : (load r v s).reg r = v := by simp [load]

end LoadFields

section Frame

variable {s t : State} {i : Instr}

/-- Z and N follow the new value of the register an instruction loads (R99). -/
theorem Shape.znFrom (h : Shape s i t) {r : Reg} (hr : znRegister i = some r) : ZNFrom s.p t.p (t.reg r) := by
  cases h with
  | load _ q v c hq =>
    obtain rfl : q = r := Option.some.inj (hq.symm.trans hr)
    rw [load_p, load_reg_same]
    exact znFrom_setZN s.p v
  | store _ _ _ _ hz => cases hz.symm.trans hr
  | pla =>
    obtain rfl : Reg.a = r := Option.some.inj hr
    rw [load_p, load_reg_same]
    exact znFrom_setZN s.p _
  | txs | pha | php | plp | nop | unknown => cases hr

/-- PC advances by the instruction's length (R105). -/
theorem Shape.pc_eq (h : Shape s i t) : t.pc = s.pc + BitVec.ofNat 16 i.length := by
  cases h <;> simp [Instr.length]

/-- An instruction charges 1 to 6 cycles (70_reset_and_hazards.md R259). -/
theorem Shape.cycles_bounds (h : Shape s i t) : s.cycles + 1 ≤ t.cycles ∧ t.cycles ≤ s.cycles + 6 := by
  cases h with
  | load _ r v c _ _ _ _ hc =>
    rw [load_cycles]
    show s.cycles + 1 ≤ s.cycles + c ∧ s.cycles + c ≤ s.cycles + 6
    omega
  | store _ ea v c _ _ _ _ hc =>
    show s.cycles + 1 ≤ s.cycles + c ∧ s.cycles + c ≤ s.cycles + 6
    omega
  | txs | pha | php | pla | plp | nop | unknown => simp

end Frame

/-- Settles O15: the destination's new value goes to `SetZN`, and without a destination only PLP writes P. -/
theorem zeroAndNegativeFollowTheResult : Obligations.ZeroAndNegativeFollowTheResult := by
  refine ⟨fun s v => ⟨znFrom_setZN s.p v, rfl, ⟨fun _ => rfl, rfl, rfl, rfl, rfl, rfl⟩, rfl⟩, fun i s t hexec => ?_⟩
  have h := exec_shape i s t hexec
  split
  · next hr => exact h.znFrom hr
  · next hnone => exact or_iff_not_imp_left.2 (h.p_eq hnone)

/-- Settles O28. -/
theorem unknownOpcodeReportsAndGoesOn : Obligations.UnknownOpcodeReportsAndGoesOn := by
  intro op s
  have hpc : (s.pc + 1).toNat = (s.pc.toNat + 1) % 65536 := by simp
  exact ⟨_, exec_unknown s op, rfl, hpc, rfl, fun q => by simp, rfl, rfl, rfl, fun _ => rfl⟩

/-- Settles O33. -/
theorem stepAdvancesPcByTheLength : Obligations.StepAdvancesPcByTheLength := by
  intro i s t hexec
  rw [(exec_shape i s t hexec).pc_eq]
  simp

/-- Settles O31: the step decodes the same three bytes, and three bytes hold a whole instruction. -/
theorem stepRunsTheDecodedInstruction : Obligations.StepRunsTheDecodedInstruction := by
  intro s hdef
  have hdecode := decode_three (s.memRead s.pc) (s.memRead (s.pc + 1)) (s.memRead (s.pc + 2))
  refine ⟨fun i rest h => ?_, _, _, hdecode, wellFormed_decodeWindow _ _ _⟩
  cases hdecode.symm.trans h
  rw [step_defined hdef, State.fetchInstr_eq, advance_two]

end Sys2Proof.Machine
end

section
/-! SUPPORT. `execute` as a sequence of steps (40_engine.md R91..R94): its loop runs whole steps while `cycles` are below the
budget, and its fuel never ends it early. -/

namespace Sys2Proof.Machine

/-! ### One step -/

/-- A step of a machine that has been reset gives a next state, reset as well (R106). -/
theorem step_total {s : State} (h : s.defined = true) : ∃ t, step s = .next t ∧ t.defined = true := by
  obtain ⟨t, hexec⟩ := exec_total s.fetchInstr s
  exact ⟨t, (step_defined h).trans hexec, (exec_shape _ s t hexec).defined_eq.trans h⟩

theorem step_undefined {s : State} (h : s.defined = false) : step s = .refused .beforeReset := by
  rw [step, h]
  rfl

theorem step_cycles {s t : State} (h : step s = .next t) :
    s.cycles + 1 ≤ t.cycles ∧ t.cycles ≤ s.cycles + 6 :=
  (exec_shape _ s t (step_cases h).2).cycles_bounds

/-! ### The loop -/

/-- The loop of R91 without fuel: `k` steps lead from one state to another, `cycles` are below the budget before each of
them and no longer after the last. -/
inductive LoopRun (budget : Int) : Nat → State → State → Prop where
  | done {s : State} (hover : budget ≤ (s.cycles : Int)) : LoopRun budget 0 s s
  | step {k : Nat} {s u t : State} (hbelow : (s.cycles : Int) < budget) (hstep : step s = .next u)
      (hrest : LoopRun budget k u t) : LoopRun budget (k + 1) s t

section LoopRun

variable {budget : Int} {k : Nat} {s t : State}

theorem LoopRun.core_run (h : LoopRun budget k s t) : Sys2Proof.core.run k s = .next t := by
  induction h with
  | done => rfl
  | step _ hstep _ ih => exact (core_run_succ hstep _).trans ih

theorem LoopRun.budget_le (h : LoopRun budget k s t) : budget ≤ (t.cycles : Int) := by
  induction h with
  | done hover => exact hover
  | step _ _ _ ih => exact ih

theorem LoopRun.core_run_of_lt (h : LoopRun budget k s t) :
    ∀ j < k, ∃ u : State, Sys2Proof.core.run j s = .next u ∧ (u.cycles : Int) < budget := by
  induction h with
  | done => exact fun _ hj => absurd hj (Nat.not_lt_zero _)
  | @step k s _ _ hbelow hstep _ ih =>
    intro j hj
    cases j with
    | zero => exact ⟨s, rfl, hbelow⟩
    | succ j =>
      obtain ⟨v, hrun, hv⟩ := ih j (Nat.lt_of_succ_lt_succ hj)
      exact ⟨v, (core_run_succ hstep j).trans hrun, hv⟩

/-- The last step starts below the budget and charges at most six cycles. -/
theorem LoopRun.cycles_le (h : LoopRun budget k s t) (hs : (s.cycles : Int) ≤ budget + 5) :
    (t.cycles : Int) ≤ budget + 5 := by
  induction h with
  | done => exact hs
  | step hbelow hstep _ ih =>
    have hcharge := (step_cycles hstep).2
    exact ih (by omega)

end LoopRun

/-- Fuel for the cycles that are left is enough, since every step charges one at least (R106). -/
theorem executeLoop_loopRun {budget : Int} {fuel : Nat} {s : State} (hdef : s.defined = true)
    (hfuel : budget ≤ (s.cycles : Int) + fuel) :
    ∃ k ≤ fuel, ∃ t, LoopRun budget k s t ∧ executeLoop budget fuel s = .next t := by
  induction fuel generalizing s with
  | zero => exact ⟨0, le_rfl, s, .done (by simpa using hfuel), rfl⟩
  | succ fuel ih =>
    by_cases hbelow : (s.cycles : Int) < budget
    · obtain ⟨u, hstep, hu⟩ := step_total hdef
      have hcharge := (step_cycles hstep).1
      obtain ⟨k, hk, t, hrun, hloop⟩ := ih hu (by omega)
      refine ⟨k + 1, Nat.succ_le_succ hk, t, .step hbelow hstep hrun, ?_⟩
      rw [executeLoop, if_pos hbelow, hstep]
      exact hloop
    · exact ⟨0, Nat.zero_le _, s, .done (not_lt.1 hbelow), by rw [executeLoop, if_neg hbelow]⟩

/-! ### `execute` -/

theorem execute_undefined {s : State} (h : s.defined = false) (budget : Int) :
    execute budget s = .refused .beforeReset := by
  rw [execute, h]
  rfl

/-- `execute` of a machine that has been reset: the loop from `cycles` 0, then the overrun (R91..R93). -/
theorem execute_loopRun {s : State} (hdef : s.defined = true) (budget : Int) :
    ∃ k ≤ budget.toNat, ∃ t, LoopRun budget k (s.setCycles 0) t ∧
      execute budget s = .next ((t.cycles : Int) - budget, t) := by
  have hfuel : budget ≤ ((s.setCycles 0).cycles : Int) + budget.toNat := by
    rw [State.setCycles_cycles]
    omega
  obtain ⟨k, hk, t, hrun, hloop⟩ := executeLoop_loopRun (s := s.setCycles 0) hdef hfuel
  refine ⟨k, hk, t, hrun, ?_⟩
  rw [execute, if_pos hdef, hloop]
  rfl

/-- Settles O49. -/
theorem executeIsTheLoopOfSteps : Obligations.ExecuteIsTheLoopOfSteps := by
  intro budget s hdef
  obtain ⟨k, hk, t, hrun, hexecute⟩ := execute_loopRun hdef budget
  exact ⟨k, t, hk, hrun.core_run, hrun.budget_le, hrun.core_run_of_lt, hexecute⟩

/-- Settles O50: the loop starts at 0 cycles, and an answered `execute` was asked of a machine that has been reset. -/
theorem overrunIsAtMostFive : Obligations.OverrunIsAtMostFive := by
  intro budget s t n h
  cases hdef : s.defined with
  | false => cases (execute_undefined hdef budget).symm.trans h
  | true =>
    obtain ⟨k, -, u, hrun, hexecute⟩ := execute_loopRun hdef budget
    cases hexecute.symm.trans h
    refine ⟨rfl, Int.sub_nonneg_of_le hrun.budget_le, fun hpos => ?_⟩
    have hstart : ((s.setCycles 0).cycles : Int) ≤ budget + 5 := by
      rw [State.setCycles_cycles]
      omega
    have hend := hrun.cycles_le hstart
    omega

/-- Settles O51: the step count is at most `budget.toNat`, which is 0. -/
theorem nonPositiveBudgetRunsNothing : Obligations.NonPositiveBudgetRunsNothing := by
  intro budget s hdef hbudget
  obtain ⟨k, hk, t, hrun, hexecute⟩ := execute_loopRun hdef budget
  obtain rfl : k = 0 := by omega
  cases hrun
  rw [hexecute, State.setCycles_cycles, Nat.cast_zero, zero_sub]

end Sys2Proof.Machine
end

section
/-! SUPPORT. The host's requests (40_engine.md R102, R103, R107): what each answers, and when. -/

namespace Sys2Proof.Machine

section Requests

variable {s : State}

theorem hostCall_execute_undefined (h : s.defined = false) (budget : Int) :
    hostCall (.execute budget) s = .refused .beforeReset := by
  show hostExecute budget s = _
  rw [hostExecute, execute_undefined h]

theorem hostCall_readRegister_defined (h : s.defined = true) (r : RegName) :
    hostCall (.readRegister r) s = .next (s, s.accessor r) := if_pos h

theorem hostCall_readRegister_undefined (h : s.defined = false) (r : RegName) :
    hostCall (.readRegister r) s = .refused .beforeReset := by
  show hostReadRegister r s = _
  rw [hostReadRegister, h]
  rfl

variable {addr : Nat}

theorem hostCall_readMemory_inside (h : addr < 65536) (s : State) :
    hostCall (.readMemory addr) s = .next (s, .byte (s.memRead (BitVec.ofNat 16 addr))) := by
  show hostReadMemory addr s = _
  rw [hostReadMemory, State.portRead_inside s h]

theorem hostCall_readMemory_outside (h : ¬ addr < 65536) (s : State) :
    hostCall (.readMemory addr) s = .fault (.memoryRange addr) := by
  show hostReadMemory addr s = _
  rw [hostReadMemory, State.portRead_outside s h]

theorem hostCall_writeMemory_outside (h : ¬ addr < 65536) (v : Byte) (s : State) :
    hostCall (.writeMemory addr v) s = .fault (.memoryRange addr) := by
  show hostWriteMemory addr v s = _
  rw [hostWriteMemory, State.portWrite_outside s h]

/-- An answered `execute` request is an answered `execute`. -/
theorem hostCall_execute_cases {budget : Int} {t : State} {reply : HostReply}
    (h : hostCall (.execute budget) s = .next (t, reply)) :
    ∃ n, execute budget s = .next (n, t) ∧ reply = .overrun n := by
  change hostExecute budget s = _ at h
  unfold hostExecute at h
  split at h
  · next n u hu =>
    cases h
    exact ⟨n, hu, rfl⟩
  · cases h
  · cases h

end Requests

/-- Settles O53, by what each request answers. -/
theorem beforeResetOnlyResetAndMemory : Obligations.BeforeResetOnlyResetAndMemory := fun s hundef =>
  ⟨step_undefined hundef, hostCall_execute_undefined hundef, hostCall_readRegister_undefined hundef, rfl, rfl,
    fun _ hin => hostCall_readMemory_inside hin s, fun _ hin v => hostCall_writeMemory_inside hin v s, rfl⟩

/-- Settles O54, request by request: an accessor answers only after a reset, the port only inside the address space. -/
theorem hostRequestsDoOnlyTheirPart : Obligations.HostRequestsDoOnlyTheirPart := by
  intro q s t reply h
  cases q with
  | reset | readDiag =>
    cases h
    exact ⟨rfl, rfl⟩
  | execute budget => exact hostCall_execute_cases h
  | readRegister r =>
    cases hdef : s.defined with
    | true =>
      cases (hostCall_readRegister_defined hdef r).symm.trans h
      exact ⟨rfl, rfl, rfl⟩
    | false => cases (hostCall_readRegister_undefined hdef r).symm.trans h
  | readMemory addr =>
    by_cases hin : addr < 65536
    · cases (hostCall_readMemory_inside hin s).symm.trans h
      exact ⟨hin, rfl, rfl⟩
    · cases (hostCall_readMemory_outside hin s).symm.trans h
  | writeMemory addr v =>
    by_cases hin : addr < 65536
    · cases (hostCall_writeMemory_inside hin v s).symm.trans h
      exact ⟨hin, rfl, State.memorySameBut_memWrite s _ v, State.sameRegisters_memWrite s _ v, rfl⟩
    · cases (hostCall_writeMemory_outside hin v s).symm.trans h

end Sys2Proof.Machine
end

section
/-! SUPPORT. The addresses of the addressing forms as numbers (41_addressing.md), the page-crossing test as arithmetic on
them, and what a resolver leaves unchanged. -/

namespace Sys2Proof.Machine

open Sys2Proof.Safety

/-! ### Addresses as numbers -/

theorem zext16_eq_ofNat (b : Byte) : zext16 b = BitVec.ofNat 16 b.toNat := (BitVec.ofNat_toNat 16 b).symm

theorem zext16_toNat (b : Byte) : (zext16 b).toNat = b.toNat := BitVec.toNat_setWidth_of_le (by decide)

theorem zeroPageIndexedEa_toNat (z idx : Byte) : (zeroPageIndexedEa z idx).toNat = (z.toNat + idx.toNat) % 256 := by
  rw [zeroPageIndexedEa, zext16_toNat, BitVec.toNat_add]

theorem indexedEa_toNat (base : Word) (idx : Byte) :
    (indexedEa base idx).toNat = (base.toNat + idx.toNat) % 65536 := by
  rw [indexedEa, BitVec.toNat_add, zext16_toNat]

theorem absOperand_eq_ofNat (h l : Byte) : absOperand h l = BitVec.ofNat 16 (h.toNat * 256 + l.toNat) := by
  rw [← wordOf_toNat, BitVec.ofNat_toNat, BitVec.setWidth_eq]
  rfl

/-- The wrapped successor of a pointer address (R129). -/
theorem zext16_add_one (q : Byte) : zext16 (q + 1) = BitVec.ofNat 16 ((q.toNat + 1) % 256) := by
  rw [zext16_eq_ofNat, BitVec.toNat_add]
  rfl

theorem pointerAt_toNat (s : State) (q : Byte) :
    (pointerAt s q).toNat =
      (s.memRead (BitVec.ofNat 16 ((q.toNat + 1) % 256))).toNat * 256 +
        (s.memRead (BitVec.ofNat 16 q.toNat)).toNat := by
  rw [pointerAt, wordOf_toNat, zext16_add_one, zext16_eq_ofNat]

/-! ### The page-crossing test -/

theorem crossed_iff (ea : Word) (idx : Byte) : crossed ea idx = true ↔ ea.toNat % 256 < idx.toNat := by
  rw [crossed, decide_eq_true_iff, BitVec.lt_def, lo8_toNat]

theorem crossed_indexedEa_iff_carries (base : Word) (idx : Byte) :
    crossed (indexedEa base idx) idx = true ↔ Carries base idx := by
  have hidx : idx.toNat < 256 := idx.isLt
  rw [crossed_iff, indexedEa_toNat, Carries]
  omega

/-- A carry out of the low byte makes the high byte the next one modulo 256; without one it stays. -/
theorem hi8_indexedEa_ne_iff_carries (base : Word) (idx : Byte) :
    hi8 (indexedEa base idx) ≠ hi8 base ↔ Carries base idx := by
  have hbase : base.toNat < 65536 := base.isLt
  have hidx : idx.toNat < 256 := idx.isLt
  rw [← BitVec.toNat_ne_iff_ne, hi8_toNat, hi8_toNat, indexedEa_toNat, Carries]
  omega

theorem not_carries_zero (base : Word) : ¬ Carries base 0x00 := (Nat.mod_lt base.toNat (by decide)).not_ge

/-! ### What a resolver leaves unchanged -/

theorem State.sameRegisters_setCycles (s : State) (n : Nat) : SameRegisters s (s.setCycles n) :=
  ⟨s.setCycles_reg n, rfl, rfl, rfl, rfl, rfl⟩

/-- Passing bytes moves PC and charges cycles. -/
theorem State.sameRegisters_advanced (s : State) (n : Word) (c : Nat) :
    SameRegisters (s.setPc (s.pc + n)) (s.advanced n c) := (s.setPc (s.pc + n)).sameRegisters_setCycles (s.cycles + c)

theorem absolute_eq_advanced (w : Word) (s : State) : absolute w s = (w, s.advanced 2 2) := by
  rw [absolute_eq, advance_two]

theorem decodeWindow_wordOperand {op : Byte} {mk : Word → Instr} (hmk : dispatchTable op = some (.wordOperand mk))
    (b1 b2 : Byte) : decodeWindow op b1 b2 = mk (absOperand b1 b2) := by
  rw [decodeWindow, hmk]

/-! ### The statements about addressing -/

/-- Settles O13: the test and the change of page both amount to the carry, which index 0 never gives. -/
theorem crossingTestIsTheCarry : Obligations.CrossingTestIsTheCarry := by
  intro base idx
  have hcarry := crossed_indexedEa_iff_carries base idx
  refine ⟨hcarry, hcarry.trans (hi8_indexedEa_ne_iff_carries base idx).symm, ?_⟩
  rintro rfl
  exact Bool.eq_false_iff.2 (mt hcarry.1 (not_carries_zero base))

/-- Settles O9. -/
theorem zeroPageIndexedWrapsInPageZero : Obligations.ZeroPageIndexedWrapsInPageZero := by
  intro r z s
  rw [zeroPageIndexed_eq]
  have hea := zeroPageIndexedEa_toNat z (s.reg r)
  exact ⟨hea, hea.trans_lt (Nat.mod_lt _ (by decide)), s.sameRegisters_advanced 1 2, rfl, rfl⟩

/-- Settles O10: the decoder assembles the address, and `Absolute()` charges for its two bytes. -/
theorem absoluteOperandHighByteFirst : Obligations.AbsoluteOperandHighByteFirst := by
  refine ⟨fun op h l mk hmk => ?_, fun w s => ?_⟩
  · rw [decodeWindow_wordOperand hmk, absOperand_eq_ofNat]
  · rw [absolute_eq_advanced]
    exact ⟨rfl, s.sameRegisters_advanced 2 2, rfl, rfl⟩

/-- Settles O11: the base of `(zp),Y` is the pointer, so both resolvers read the same one. -/
theorem pointersAreLittleEndianInPageZero : Obligations.PointersAreLittleEndianInPageZero := by
  intro q s
  rw [readPtrIndY_eq, readPtr_eq, indYBase_eq]
  exact ⟨pointerAt_toNat s q, rfl, rfl, rfl, s.sameRegisters_setCycles (s.cycles + 2), rfl, rfl⟩

/-- Settles O12. -/
theorem indexedSumsWrapModulo65536 : Obligations.IndexedSumsWrapModulo65536 := indexedEa_toNat

end Sys2Proof.Machine
end

section
/-! SUPPORT. What passing an instruction's bytes leaves (40_engine.md R105, R106), and NOP, which does nothing else
(42_nop.md R150). -/

namespace Sys2Proof.Machine

open Sys2Proof.Safety

theorem State.advanced_ofNat (s : State) (len cyc : Nat) : Advanced len cyc s (s.advanced (BitVec.ofNat 16 len) cyc) := by
  have hpc : (s.pc + BitVec.ofNat 16 len).toNat = (s.pc.toNat + len) % 65536 := by
    rw [BitVec.toNat_add, BitVec.toNat_ofNat, Nat.add_mod_mod]
  exact ⟨hpc, rfl, rfl, rfl⟩

theorem State.memorySame_advanced (s : State) (n : Word) (c : Nat) : MemorySame s (s.advanced n c) := fun _ => rfl

/-- NOP has no data access, so its one byte's fetch is all. -/
theorem accesses_nop (s : State) : accesses .nop s = [.fetch s.pc] := rfl

/-- Settles O27: NOP's next state is the old one advanced past one byte, at two cycles. -/
theorem nopOnlyAdvances : Obligations.NopOnlyAdvances := fun s =>
  ⟨accesses_nop s, _, exec_nop s, s.advanced_reg 1 2, rfl, rfl, s.memorySame_advanced 1 2, s.advanced_ofNat 1 2⟩

end Sys2Proof.Machine
end

section
/-! SUPPORT. The loads (43_loads.md R160..R178): what loading a register after passing an instruction's bytes leaves, and the
instruction an opcode byte with operand bytes at PC makes the step run (R161, R164). -/

namespace Sys2Proof.Machine

open Sys2Proof.Safety

/-! ### The next state of a load -/

/-- `Load` writes its register, Z and N; PC and `cycles` are as the advance left them (R160). -/
theorem loaded_load_advanced (s : State) (r : Reg) (v : Byte) (len cyc : Nat) :
    Loaded r v len cyc s (load r v (s.advanced (BitVec.ofNat 16 len) cyc)) := by
  refine ⟨load_reg_same r v _, fun q hq => ?others, load_sp r v _, ?flags,
    fun k => State.memRead_congr (load_mem r v _) k, ?advance⟩
  case others => rw [load_reg_other r v _ hq, State.advanced_reg]
  case flags =>
    rw [load_p]
    exact znFrom_setZN s.p v
  case advance =>
    rw [Advanced, load_pc, load_cycles, load_defined, load_diag]
    exact s.advanced_ofNat len cyc

section Forms

variable {s : State} {i : Instr} {r : Reg} {v : Byte} {len : Nat}

/-- A form of fixed cost, by its equation. -/
theorem loaded_of_exec {cyc : Nat} (h : exec i s = .next (load r v (s.advanced (BitVec.ofNat 16 len) cyc))) :
    ∃ t, exec i s = .next t ∧ Loaded r v len cyc s t := ⟨_, h, loaded_load_advanced s r v len cyc⟩

/-- A form that costs more when the index crosses a page, by its equation: the test is the carry (R127). -/
theorem loaded_of_exec_indexed {base : Word} {idx : Byte} {slow fast : Nat}
    (h : exec i s = .next (load r v
      (s.advanced (BitVec.ofNat 16 len) (if crossed (indexedEa base idx) idx then slow else fast)))) :
    ∃ t, exec i s = .next t ∧ Loaded r v len (if Carries base idx then slow else fast) s t := by
  simp only [crossed_indexedEa_iff_carries] at h
  exact loaded_of_exec h

end Forms

/-! ### The instruction at PC, from its bytes -/

theorem fetchInstr_byteOperand {s : State} {op : Byte} {mk : Byte → Instr} (hop : s.memRead s.pc = op)
    (hmk : dispatchTable op = some (.byteOperand mk)) : s.fetchInstr = mk (s.memRead (s.pc + 1)) := by
  rw [State.fetchInstr_eq, hop, decodeWindow, hmk]

/-- Two operand bytes make the address they name, high byte first (R124). -/
theorem fetchInstr_wordOperand {s : State} {op : Byte} {mk : Word → Instr} {ea : Word} (hop : s.memRead s.pc = op)
    (hmk : dispatchTable op = some (.wordOperand mk))
    (hea : ea.toNat = (s.memRead (s.pc + 1)).toNat * 256 + (s.memRead (s.pc + 2)).toNat) : s.fetchInstr = mk ea := by
  rw [State.fetchInstr_eq, hop, decodeWindow_wordOperand hmk, advance_two, absOperand_eq_ofNat, ← hea,
    BitVec.ofNat_toNat, BitVec.setWidth_eq]

theorem accesses_ldaImm (v : Byte) (s : State) : accesses (.ldaImm v) s = [.fetch s.pc, .fetch (s.pc + 1)] := rfl

theorem accesses_ldaAbs (w : Word) (s : State) :
    accesses (.ldaAbs w) s = [.fetch s.pc, .fetch (s.pc + 1), .fetch (s.pc + 2), .read w] := by
  rw [← advance_two]
  rfl

/-! ### The statements about the loads -/

/-- Settles O16, form by form; the three indexed forms over a 16-bit base pay for a crossed page. -/
theorem ldaLoadsA : Obligations.LdaLoadsA := fun s =>
  ⟨fun i => loaded_of_exec (exec_ldaImm s i),
    fun z => loaded_of_exec (exec_ldaZp s z),
    fun z => loaded_of_exec (exec_ldaZpX s z),
    fun w => loaded_of_exec (exec_ldaAbs s w),
    fun w => loaded_of_exec_indexed (exec_ldaAbsX s w),
    fun w => loaded_of_exec_indexed (exec_ldaAbsY s w),
    fun q => loaded_of_exec (exec_ldaIndX s q),
    fun q => loaded_of_exec_indexed (exec_ldaIndY s q)⟩

/-- Settles O17, form by form. -/
theorem ldxLoadsX : Obligations.LdxLoadsX := fun s =>
  ⟨fun i => loaded_of_exec (exec_ldxImm s i),
    fun z => loaded_of_exec (exec_ldxZp s z),
    fun z => loaded_of_exec (exec_ldxZpY s z),
    fun w => loaded_of_exec (exec_ldxAbs s w),
    fun w => loaded_of_exec_indexed (exec_ldxAbsY s w)⟩

/-- Settles O18, form by form. -/
theorem ldyLoadsY : Obligations.LdyLoadsY := fun s =>
  ⟨fun i => loaded_of_exec (exec_ldyImm s i),
    fun z => loaded_of_exec (exec_ldyZp s z),
    fun z => loaded_of_exec (exec_ldyZpX s z),
    fun w => loaded_of_exec (exec_ldyAbs s w),
    fun w => loaded_of_exec_indexed (exec_ldyAbsX s w)⟩

/-- Settles O29: 0xA9 selects LDA immediate, whose operand is the next byte. -/
theorem ldaImmediateFromItsBytes : Obligations.LdaImmediateFromItsBytes := by
  intro s hdef hop
  have hmk : dispatchTable 0xA9 = some (.byteOperand .ldaImm) := rfl
  rw [step_defined hdef, fetchInstr_byteOperand hop hmk]
  exact ⟨accesses_ldaImm _ s, loaded_of_exec (exec_ldaImm s _)⟩

/-- Settles O30: 0xAD selects LDA absolute, whose address is the next two bytes, high byte first. -/
theorem ldaAbsoluteFromItsBytes : Obligations.LdaAbsoluteFromItsBytes := by
  intro s ea hdef hop hea
  have hmk : dispatchTable 0xAD = some (.wordOperand .ldaAbs) := rfl
  rw [step_defined hdef, fetchInstr_wordOperand hop hmk hea]
  exact ⟨accesses_ldaAbs ea s, loaded_of_exec (exec_ldaAbs s ea)⟩

end Sys2Proof.Machine
end

section
/-! SUPPORT. The stores (44_stores.md R180..R193): what writing a byte after passing an instruction's bytes leaves. -/

namespace Sys2Proof.Machine

open Sys2Proof.Safety

/-- `Store` writes its one byte; all else is as the advance left it (R180). -/
theorem stored_memWrite_advanced (s : State) (v : Byte) (ea : Word) (len cyc : Nat) :
    Stored v ea len cyc s ((s.advanced (BitVec.ofNat 16 len) cyc).memWrite ea v) := by
  refine ⟨State.memorySameBut_memWrite (s.advanced _ cyc) ea v, fun q => ?registers, rfl, rfl,
    s.advanced_ofNat len cyc⟩
  case registers => rw [State.memWrite_reg, State.advanced_reg]

/-- A form of a store, by its equation. -/
theorem stored_of_exec {i : Instr} {s : State} {v : Byte} {ea : Word} {len cyc : Nat}
    (h : exec i s = .next ((s.advanced (BitVec.ofNat 16 len) cyc).memWrite ea v)) :
    ∃ t, exec i s = .next t ∧ Stored v ea len cyc s t := ⟨_, h, stored_memWrite_advanced s v ea len cyc⟩

/-- Settles O19, form by form; the indexed forms pay the extra cycle whether or not the page is crossed. -/
theorem staStoresA : Obligations.StaStoresA := fun s =>
  ⟨fun z => stored_of_exec (exec_staZp s z),
    fun z => stored_of_exec (exec_staZpX s z),
    fun w => stored_of_exec (exec_staAbs s w),
    fun w => stored_of_exec (exec_staAbsX s w),
    fun w => stored_of_exec (exec_staAbsY s w),
    fun q => stored_of_exec (exec_staIndX s q),
    fun q => stored_of_exec (exec_staIndY s q)⟩

/-- Settles O20, form by form. -/
theorem stxStoresX : Obligations.StxStoresX := fun s =>
  ⟨fun z => stored_of_exec (exec_stxZp s z),
    fun z => stored_of_exec (exec_stxZpY s z),
    fun w => stored_of_exec (exec_stxAbs s w)⟩

/-- Settles O21, form by form. -/
theorem styStoresY : Obligations.StyStoresY := fun s =>
  ⟨fun z => stored_of_exec (exec_styZp s z),
    fun z => stored_of_exec (exec_styZpX s z),
    fun w => stored_of_exec (exec_styAbs s w)⟩

end Sys2Proof.Machine
end

section
/-! SUPPORT. The register transfers (45_transfers.md R200..R206): all but TXS leave what a load of the source's value leaves;
TXS writes SP alone. -/

namespace Sys2Proof.Machine

open Sys2Proof.Safety

/-- Settles O22, transfer by transfer: each loads its destination with the source's value. -/
theorem transfersCopyAndSetFlags : Obligations.TransfersCopyAndSetFlags := fun s =>
  ⟨loaded_of_exec (exec_tax s),
    loaded_of_exec (exec_tay s),
    loaded_of_exec (exec_txa s),
    loaded_of_exec (exec_tya s)⟩

/-- Settles O23: TSX loads X with SP; TXS's next state is the old one advanced past one byte, with X in SP. -/
theorem tsxSetsFlagsTxsDoesNot : Obligations.TsxSetsFlagsTxsDoesNot := by
  intro s
  refine ⟨loaded_of_exec (exec_tsx s), _, exec_txs s, rfl, rfl, fun q => ?registers, s.memorySame_advanced 1 2,
    s.advanced_ofNat 1 2⟩
  case registers => rw [State.setSp_reg, State.advanced_reg]

end Sys2Proof.Machine
end

section
/-! SUPPORT. The stack instructions (46_stack.md R210..R214): what a push and a pull leave, and a pull that gives back what a
push wrote. -/

namespace Sys2Proof.Machine

open Sys2Proof.Safety

/-! ### The push -/

/-- A push writes the byte SP names and takes SP down by one, modulo 256; all else is as the advance left it (R210). -/
theorem pushed_memWrite_advanced (s : State) (v : Byte) :
    Pushed v s (((s.advanced 1 3).memWrite (stackAddress s.sp) v).setSp (s.sp - 1)) := by
  refine ⟨State.memorySameBut_memWrite (s.advanced 1 3) (stackAddress s.sp) v, ?sp, fun q => ?registers, rfl,
    s.advanced_ofNat 1 3⟩
  case sp => simp [BitVec.toNat_sub, Nat.add_comm]
  case registers => rw [State.setSp_reg, State.memWrite_reg, State.advanced_reg]

/-- Settles O24: PHA pushes A, and PHP pushes P with no bit forced. -/
theorem pushesStoreThenDecrement : Obligations.PushesStoreThenDecrement := fun s =>
  ⟨⟨_, exec_pha s, pushed_memWrite_advanced s s.a⟩, _, exec_php s, pushed_memWrite_advanced s s.p⟩

/-! ### The pull -/

/-- Settles O25: the next state of each is the old one advanced past one byte, with SP one up and the byte SP then names in A
(as a load, which sets Z and N) or in P. -/
theorem pullsIncrementThenRead : Obligations.PullsIncrementThenRead := by
  intro s
  have hsp : (s.sp + 1).toNat = (s.sp.toNat + 1) % 256 := BitVec.toNat_add s.sp 1
  refine ⟨⟨_, exec_pla s, hsp, rfl, znFrom_setZN s.p _, rfl, rfl, s.memorySame_advanced 1 4, s.advanced_ofNat 1 4⟩,
    _, exec_plp s, hsp, rfl, fun q => ?registers, s.memorySame_advanced 1 4, s.advanced_ofNat 1 4⟩
  case registers => rw [State.setP_reg, State.setSp_reg, State.advanced_reg]

/-! ### A pull after a push -/

/-- One up undoes one down, both modulo 256; so the address a pull reads is the one the push wrote. -/
theorem pull_after_push {s t u : State} {v : Byte} (hpush : Pushed v s t) (hsp : u.sp = t.sp)
    (hbyte : u.memRead (stackAddress s.sp) = t.memRead (stackAddress s.sp)) :
    u.memRead (stackAddress (u.sp + 1)) = v ∧ u.sp + 1 = s.sp := by
  obtain ⟨⟨hwritten, -⟩, hdec, -⟩ := hpush
  have hback : u.sp + 1 = s.sp := by
    apply BitVec.eq_of_toNat_eq
    have hlt : s.sp.toNat < 256 := s.sp.isLt
    have hinc : (u.sp + 1).toNat = (u.sp.toNat + 1) % 256 := BitVec.toNat_add u.sp 1
    rw [hinc, hsp, hdec]
    omega
  exact ⟨by rw [hback, hbyte, hwritten], hback⟩

/-- Settles O26: the pull reads the byte the push wrote, and SP is back where it was. -/
theorem pushThenPullRestores : Obligations.PushThenPullRestores := by
  refine fun s t u hsp hbyte => ⟨fun hpha => ?_, fun hphp => ?_⟩
  · cases (exec_pha s).symm.trans hpha
    exact ⟨_, exec_pla u, pull_after_push (pushed_memWrite_advanced s s.a) hsp hbyte⟩
  · cases (exec_php s).symm.trans hphp
    exact ⟨_, exec_plp u, pull_after_push (pushed_memWrite_advanced s s.p) hsp hbyte⟩

end Sys2Proof.Machine
end

section
/-! SUPPORT. Every step completes (60_exceptions.md R220, R222), and so `execute(1)` is one whole step (40_engine.md R92). -/

namespace Sys2Proof.Machine

/-- A step is refused for one reason only (R107). -/
theorem step_refused_cases {s : State} {r : Refusal} (h : step s = .refused r) :
    r = .beforeReset ∧ s.defined = false := by
  cases hdef : s.defined with
  | true =>
    obtain ⟨t, hstep, -⟩ := step_total hdef
    cases hstep.symm.trans h
  | false =>
    cases (step_undefined hdef).symm.trans h
    exact ⟨rfl, rfl⟩

/-- Settles O32. -/
theorem everyStepCompletes : Obligations.EveryStepCompletes := fun s =>
  ⟨step_total, step_ne_fault s, fun _ => step_refused_cases⟩

/-- Settles O52: the loop takes a step, since 0 cycles are below the budget 1, and at most `(1 : Int).toNat` of them. -/
theorem executeOneIsASingleStep : Obligations.ExecuteOneIsASingleStep := by
  intro s hdef
  obtain ⟨k, hk, t, hrun, hexecute⟩ := execute_loopRun hdef 1
  cases hrun with
  | done hover =>
    rw [State.setCycles_cycles] at hover
    exact absurd hover (by decide)
  | @step k _ u _ _ hstep hrest =>
    obtain rfl : k = 0 := Nat.le_zero.1 (Nat.le_of_succ_le_succ hk)
    cases hrest
    exact ⟨t, hstep, hexecute⟩

end Sys2Proof.Machine
end

section
/-! SUPPORT. What one instruction charges (70_reset_and_hazards.md R259), and the reset: the registers it leaves, and the
instruction at its address (R250..R253). -/

namespace Sys2Proof.Machine

open Sys2Proof.Safety

/-! ### The charge of an instruction -/

section Charge

variable {s t : State} {i : Instr}

/-- An instruction of the table pays for its opcode fetch and for one thing more at least (D4, D5). -/
theorem Shape.two_le_charge (h : Shape s i t) (hi : ∀ op, i ≠ .unknown op) : s.cycles + 2 ≤ t.cycles := by
  cases h with
  | load _ r v c _ _ _ _ hc =>
    rw [load_cycles]
    exact Nat.add_le_add_left hc.1 s.cycles
  | store _ ea v c _ _ _ _ hc => exact Nat.add_le_add_left hc.1 s.cycles
  | unknown op => exact absurd rfl (hi op)
  | txs | pha | php | pla | plp | nop => simp

/-- An unknown opcode costs its fetch alone (40_engine.md R97). -/
theorem Shape.cycles_unknown {op : Byte} (h : Shape s (.unknown op) t) : t.cycles = s.cycles + 1 := by
  cases h with
  | load _ _ _ _ _ _ _ hu | store _ _ _ _ _ _ _ hu => exact absurd rfl (hu op)
  | unknown => rfl

theorem Shape.charge_eq_one_iff (h : Shape s i t) : t.cycles = s.cycles + 1 ↔ ∃ op, i = .unknown op := by
  refine ⟨fun hone => ?_, ?_⟩
  · by_contra hknown
    have htwo := h.two_le_charge (not_exists.1 hknown)
    omega
  · rintro ⟨op, rfl⟩
    exact h.cycles_unknown

end Charge

/-- Settles O34, from the charge of an instruction's shape. -/
theorem stepCostsOneToSixCycles : Obligations.StepCostsOneToSixCycles := by
  intro i s t hexec
  have h := exec_shape i s t hexec
  obtain ⟨hlow, hhigh⟩ := h.cycles_bounds
  exact ⟨hlow, hhigh, h.charge_eq_one_iff⟩

/-! ### The reset -/

@[simp] theorem State.applyReset_reg (s : State) (q : Reg) : s.applyReset.reg q = 0x00 := by cases q <;> rfl

/-- Each flag is a bit of P (10_state.md R26). -/
theorem flags_zero :
    ∀ flag ∈ [Flags.c, Flags.z, Flags.i, Flags.d, Flags.b, Flags.u, Flags.v, Flags.n], flag 0x00 = false := by
  simp [Flags.c, Flags.z, Flags.i, Flags.d, Flags.b, Flags.u, Flags.v, Flags.n]

/-- The reset state has no event, and its memory, all 0x00, is canonical (20_memory.md R45). -/
theorem inv_reset : Inv State.reset := ⟨rfl, Memory.wf_reset, List.forall_mem_nil _⟩

/-- Whatever undefined values a created core's registers hold, the reset overwrites them all (R250). -/
theorem State.applyReset_created (pc : Word) (sp a x y p : Byte) :
    (State.created pc sp a x y p).applyReset = State.reset := rfl

/-- A reset overwrites what an earlier one set, with the same values (R252). -/
theorem State.applyReset_applyReset (s : State) : s.applyReset.applyReset = s.applyReset := rfl

/-- Only `diag` has to agree: the reset overwrites every register, and memory is not compared (R252). -/
theorem State.sameRegisters_applyReset {s u : State} (hdiag : s.diag = u.diag) :
    SameRegisters s.applyReset u.applyReset := by
  refine ⟨fun q => ?registers, rfl, rfl, rfl, rfl, hdiag.symm⟩
  case registers => rw [State.applyReset_reg, State.applyReset_reg]

/-- The instruction at PC after reset is made of the bytes from 0xFFFC on, which are not taken for an address (R251). -/
theorem fetchInstr_applyReset (s : State) :
    s.applyReset.fetchInstr = decodeWindow (s.memRead 0xFFFC) (s.memRead 0xFFFD) (s.memRead 0xFFFE) := by
  have hfirst : (0xFFFC : Word) + 1 = 0xFFFD := rfl
  have hsecond : (0xFFFD : Word) + 1 = 0xFFFE := rfl
  simp only [State.fetchInstr_eq, State.applyReset_pc, State.applyReset_memRead, hfirst, hsecond]

/-! ### The statements about the reset -/

/-- Settles O45. -/
theorem invariantHoldsAtReset : Obligations.InvariantHoldsAtReset := ⟨inv_reset, State.applyReset_created⟩

/-- Settles O46: P is 0x00, so each of its flags is 0. -/
theorem resetGivesEveryRegisterItsValue : Obligations.ResetGivesEveryRegisterItsValue := fun s =>
  ⟨s.applyReset_pc, s.applyReset_sp, s.applyReset_reg, s.applyReset_p, s.applyReset_defined, s.applyReset_cycles,
    s.applyReset_memRead, s.applyReset_diag, flags_zero⟩

/-- Settles O47. -/
theorem resetIsIdempotent : Obligations.ResetIsIdempotent := fun s _ =>
  ⟨s.applyReset_applyReset, s.applyReset_cycles, s.applyReset_mem, State.sameRegisters_applyReset⟩

/-- Settles O48: the step runs the instruction at PC. -/
theorem firstInstructionIsAtTheResetAddress : Obligations.FirstInstructionIsAtTheResetAddress := by
  intro s
  refine ⟨s.applyReset_pc, ?_⟩
  rw [step_defined s.applyReset_defined, fetchInstr_applyReset]

end Sys2Proof.Machine
end
